-- ==== Sys2Proof/Word.lean ====
section
/-! DEFINITION. Widths of the machine's values (spec 00_scope R5). -/

namespace Sys2Proof

/-- A word: 32 bits (R5). -/
abbrev Word := BitVec 32

/-- A byte: 8 bits (R5). -/
abbrev Byte := BitVec 8

/-- A general register number, 0 to 15 (R30). -/
abbrev Reg := BitVec 4

end Sys2Proof
end

