-- ==== Sys2Proof/Config.lean ====
section
/-! DEFINITION. The parameters of R6 as plain data, the constraints among them, and the free bits of R58. -/

namespace Sys2Proof

/-- What a misaligned data access does (R6, R85). -/
inductive UnalignedPolicy where
  | fault
  | v6
deriving DecidableEq, Repr

/-- What a zero divisor does in SDIV and UDIV (R6, R316). -/
inductive DivByZero where
  | fault
  | zero
deriving DecidableEq, Repr

/-- What raising an exception does (R6, R521). -/
inductive TrapModel where
  | fault
  | classic
deriving DecidableEq, Repr

/-- Read, write and execute rights for one privilege level (R80). -/
structure Rights where
  read : Bool
  write : Bool
  exec : Bool
deriving DecidableEq, Repr

/-- A region of `MemMap`: its first and last byte address, and its rights for privileged and for User
accesses (R80). -/
structure Region where
  first : Nat
  last : Nat
  priv : Rights
  user : Rights
deriving DecidableEq, Repr

/-- The asynchronous events asserted at one step (R6, R540). -/
structure AsyncEvents where
  irq : Bool
  fiq : Bool
  abort : Bool
deriving DecidableEq, Repr

/-- The implementation parameters of R6. -/
structure Config where
  haveThumb : Bool
  haveV5 : Bool
  haveV5E : Bool
  haveV5J : Bool
  haveV6 : Bool
  haveV6K : Bool
  haveT2 : Bool
  haveV7 : Bool
  haveRM : Bool
  haveXS : Bool
  jazelleAvailable : Bool
  dataBigEndianAtReset : Bool
  instrBigEndian : Bool
  unalignedPolicy : UnalignedPolicy
  divByZero : DivByZero
  vectorBase : Word
  trapModel : TrapModel
  thumbExceptionEntry : Bool
  /-- R80: a byte address is mapped when some region holds it; the first such region gives its rights. -/
  memMap : List Region
  haltAddress : Word
  /-- R540: entry k is what is asserted at step k; beyond the list nothing is (log 28). -/
  interrupts : List AsyncEvents
deriving DecidableEq, Repr

/-- R6: true on Architecture v4 and earlier. -/
def Config.mulFlagsUnpredictable (c : Config) : Bool := !c.haveV5

/-- The constraints among the open parameters that 92_eei_decisions.md lists, and the alignment of
`VectorBase` (R528: one of two values) and `HaltAddress` (R573). -/
def Config.wf (c : Config) : Bool :=
  (!c.haveT2 || (c.haveV6 && c.haveThumb)) && (!c.haveV7 || c.haveT2) && (!c.haveRM || c.haveV7) &&
  (!c.haveV6 || c.haveV5J) && (!c.haveV5J || c.haveV5E) && (!c.haveV5E || c.haveV5) &&
  (!c.haveXS || c.haveV5E) &&
  (c.vectorBase == 0#32 || c.vectorBase == 0xFFFF0000#32) && c.haltAddress.extractLsb' 0 2 == 0#2

/-- R58, U1: the k-th free bit drawn in a run. It has no body: nothing can be proved of its value (log 12). -/
opaque Config.freeBit : Nat → Bool

/-- Read and write rights without execute, for both privilege levels. -/
def Region.data (first last : Nat) : Region := ⟨first, last, ⟨true, true, false⟩, ⟨true, true, false⟩⟩

/-- Read and execute rights without write, for both privilege levels. -/
def Region.code (first last : Nat) : Region := ⟨first, last, ⟨true, false, true⟩, ⟨true, false, true⟩⟩

/-- The configuration of the reset state. DESIGN CHOICE for every OPEN parameter (log 1, 2, 3, 4); the
decided parameters have the spec's values (log 13). Statements quantify over every configuration. -/
def Config.atReset : Config where
  haveThumb := true
  haveV5 := true
  haveV5E := true
  haveV5J := true
  haveV6 := true
  haveV6K := true
  haveT2 := true
  haveV7 := true
  haveRM := true
  haveXS := true
  jazelleAvailable := false
  dataBigEndianAtReset := false
  instrBigEndian := false
  unalignedPolicy := .fault
  divByZero := .fault
  vectorBase := 0xFFFF0000#32
  trapModel := .fault
  thumbExceptionEntry := false
  memMap := [Region.data 0x00000000 0x00007FFF, Region.code 0x00008000 0x0000FFFF,
    Region.data 0x00010000 0xFFFEFFFF, Region.code 0xFFFF0000 0xFFFF0FFF, Region.data 0xFFFF1000 0xFFFFFFFF]
  haltAddress := 0x0000FFF0#32
  interrupts := []

end Sys2Proof
end

