-- ==== Sys2Proof/Syntax.lean ====
section
/-! DEFINITION. The instructions of spec/opcode_table.json as an abstract syntax: one constructor per
instruction, with the operand forms that its rows distinguish. Field names are the card's (R120). -/

namespace Sys2Proof

/-- The condition codes (R131). -/
inductive Cond where
  | eq | ne | cs | cc | mi | pl | vs | vc | hi | ls | ge | lt | gt | le | al
deriving DecidableEq, Repr

/-- Which instruction set an instruction is encoded in; an A32 instruction carries its condition field
(R110, R116, R121). -/
inductive Enc where
  | a32 (c : Cond)
  | thumb
deriving DecidableEq, Repr

/-- The `type` field of a shift (R117); `ror` with amount field 0 is RRX (R138). -/
inductive ShiftType where
  | lsl | lsr | asr | ror
deriving DecidableEq, Repr

/-- The encoded forms of `<Operand2>` (R132, R134, R135, R136). -/
inductive Op2 where
  | immA (rotate : BitVec 4) (imm8 : BitVec 8)
  | immT (imm12 : BitVec 12)
  | reg (rm : Reg) (ty : ShiftType) (imm5 : BitVec 5)
  | regReg (rm : Reg) (ty : ShiftType) (rs : Reg)
deriving DecidableEq, Repr

/-- Offset, pre-indexed or post-indexed addressing (R471, R472). -/
inductive Idx where
  | offset | pre | post
deriving DecidableEq, Repr

/-- The encoded addressing forms of R476: four A32 forms, four T32 forms. `add` is the U bit. -/
inductive MemForm where
  | aImm (idx : Idx) (add : Bool) (rn : Reg) (imm12 : BitVec 12)
  | aReg (idx : Idx) (add : Bool) (rn rm : Reg) (ty : ShiftType) (imm5 : BitVec 5)
  | aImm8 (idx : Idx) (add : Bool) (rn : Reg) (imm8 : BitVec 8)
  | aReg0 (idx : Idx) (add : Bool) (rn rm : Reg)
  | tImm12 (rn : Reg) (imm12 : BitVec 12)
  | tImm8 (idx : Idx) (add : Bool) (rn : Reg) (imm8 : BitVec 8)
  | tReg (rn rm : Reg) (imm2 : BitVec 2)
  | tLit (add : Bool) (imm12 : BitVec 12)
deriving DecidableEq, Repr

/-- The addressing forms of the `T` instructions: post-indexed in A32, immediate offset in T32 (R476). -/
inductive MemFormT where
  | aImm (add : Bool) (rn : Reg) (imm12 : BitVec 12)
  | aReg (add : Bool) (rn rm : Reg) (ty : ShiftType) (imm5 : BitVec 5)
  | aImm8 (add : Bool) (rn : Reg) (imm8 : BitVec 8)
  | aReg0 (add : Bool) (rn rm : Reg)
  | tImm8 (rn : Reg) (imm8 : BitVec 8)
deriving DecidableEq, Repr

/-- The encodings of `B <label>` (R422): A32, T32 T3 (own condition), T32 T4. -/
inductive BTarget where
  | a32 (c : Cond) (imm24 : BitVec 24)
  | t3 (c : Cond) (s j1 j2 : Bool) (imm6 : BitVec 6) (imm11 : BitVec 11)
  | t4 (s j1 j2 : Bool) (imm10 : BitVec 10) (imm11 : BitVec 11)
deriving DecidableEq, Repr

/-- The encodings of `BL <label>` (R423). -/
inductive BlTarget where
  | a32 (c : Cond) (imm24 : BitVec 24)
  | t32 (s j1 j2 : Bool) (imm10 : BitVec 10) (imm11 : BitVec 11)
deriving DecidableEq, Repr

/-- The encodings of `BLX <label>` (R425). -/
inductive BlxTarget where
  | a32 (h : Bool) (imm24 : BitVec 24)
  | t32 (s j1 j2 : Bool) (imm10H imm10L : BitVec 10)
deriving DecidableEq, Repr

/-- The instructions of the opcode table. -/
inductive Instr where
  -- Data processing with `<Operand2>`, flags written when `s` (R201, R202, R207, R208, R210, R357, R358, R359, R361).
  | and (e : Enc) (s : Bool) (rd rn : Reg) (o : Op2)
  | eor (e : Enc) (s : Bool) (rd rn : Reg) (o : Op2)
  | sub (e : Enc) (s : Bool) (rd rn : Reg) (o : Op2)
  | rsb (e : Enc) (s : Bool) (rd rn : Reg) (o : Op2)
  | add (e : Enc) (s : Bool) (rd rn : Reg) (o : Op2)
  | adc (e : Enc) (s : Bool) (rd rn : Reg) (o : Op2)
  | sbc (e : Enc) (s : Bool) (rd rn : Reg) (o : Op2)
  | orr (e : Enc) (s : Bool) (rd rn : Reg) (o : Op2)
  | bic (e : Enc) (s : Bool) (rd rn : Reg) (o : Op2)
  -- RSC, A32 only (R211).
  | rsc (c : Cond) (s : Bool) (rd rn : Reg) (o : Op2)
  -- ORN, T32 only (R360).
  | orn (s : Bool) (rd rn : Reg) (o : Op2)
  -- Compares and tests (R353 to R356).
  | tst (e : Enc) (rn : Reg) (o : Op2)
  | teq (e : Enc) (rn : Reg) (o : Op2)
  | cmp (e : Enc) (rn : Reg) (o : Op2)
  | cmn (e : Enc) (rn : Reg) (o : Op2)
  -- Moves (R341, R342).
  | mov (e : Enc) (s : Bool) (rd : Reg) (o : Op2)
  | mvn (e : Enc) (s : Bool) (rd : Reg) (o : Op2)
  -- RRX{S} (R351); the A32 and T32 words are those of MOV with RRX (log 14).
  | rrx (e : Enc) (s : Bool) (rd rm : Reg)
  -- ADR, the T32 encodings (R206); the A32 words are ADD and SUB with Rn = PC.
  | adr (add : Bool) (rd : Reg) (imm12 : BitVec 12)
  -- SUBS PC, LR, #imm8, the T32 encoding (R214); the A32 words are SUB.
  | subsPcLr (imm8 : BitVec 8)
  -- Shifts by register, the T32 encodings (R347 to R350).
  | lsl (s : Bool) (rd rm rs : Reg)
  | lsr (s : Bool) (rd rm rs : Reg)
  | asr (s : Bool) (rd rm rs : Reg)
  | ror (s : Bool) (rd rm rs : Reg)
  -- 16-bit immediates (R343, R344).
  | movw (e : Enc) (rd : Reg) (imm16 : BitVec 16)
  | movt (e : Enc) (rd : Reg) (imm16 : BitVec 16)
  -- Wide add and subtract, T32 only (R203, R209).
  | addw (rd rn : Reg) (imm12 : BitVec 12)
  | subw (rd rn : Reg) (imm12 : BitVec 12)
  -- Saturating add and subtract (R204, R205, R212, R213).
  | qadd (e : Enc) (rd rm rn : Reg)
  | qsub (e : Enc) (rd rm rn : Reg)
  | qdadd (e : Enc) (rd rm rn : Reg)
  | qdsub (e : Enc) (rd rm rn : Reg)
  -- Parallel add and subtract (R231 to R266).
  | sadd16 (e : Enc) (rd rn rm : Reg)
  | qadd16 (e : Enc) (rd rn rm : Reg)
  | shadd16 (e : Enc) (rd rn rm : Reg)
  | uadd16 (e : Enc) (rd rn rm : Reg)
  | uqadd16 (e : Enc) (rd rn rm : Reg)
  | uhadd16 (e : Enc) (rd rn rm : Reg)
  | ssub16 (e : Enc) (rd rn rm : Reg)
  | qsub16 (e : Enc) (rd rn rm : Reg)
  | shsub16 (e : Enc) (rd rn rm : Reg)
  | usub16 (e : Enc) (rd rn rm : Reg)
  | uqsub16 (e : Enc) (rd rn rm : Reg)
  | uhsub16 (e : Enc) (rd rn rm : Reg)
  | sadd8 (e : Enc) (rd rn rm : Reg)
  | qadd8 (e : Enc) (rd rn rm : Reg)
  | shadd8 (e : Enc) (rd rn rm : Reg)
  | uadd8 (e : Enc) (rd rn rm : Reg)
  | uqadd8 (e : Enc) (rd rn rm : Reg)
  | uhadd8 (e : Enc) (rd rn rm : Reg)
  | ssub8 (e : Enc) (rd rn rm : Reg)
  | qsub8 (e : Enc) (rd rn rm : Reg)
  | shsub8 (e : Enc) (rd rn rm : Reg)
  | usub8 (e : Enc) (rd rn rm : Reg)
  | uqsub8 (e : Enc) (rd rn rm : Reg)
  | uhsub8 (e : Enc) (rd rn rm : Reg)
  | sasx (e : Enc) (rd rn rm : Reg)
  | qasx (e : Enc) (rd rn rm : Reg)
  | shasx (e : Enc) (rd rn rm : Reg)
  | uasx (e : Enc) (rd rn rm : Reg)
  | uqasx (e : Enc) (rd rn rm : Reg)
  | uhasx (e : Enc) (rd rn rm : Reg)
  | ssax (e : Enc) (rd rn rm : Reg)
  | qsax (e : Enc) (rd rn rm : Reg)
  | shsax (e : Enc) (rd rn rm : Reg)
  | usax (e : Enc) (rd rn rm : Reg)
  | uqsax (e : Enc) (rd rn rm : Reg)
  | uhsax (e : Enc) (rd rn rm : Reg)
  -- Sum of absolute differences (R267).
  | usad8 (e : Enc) (rd rm rs : Reg)
  -- ... and accumulate (R268).
  | usada8 (e : Enc) (rd rm rs rn : Reg)
  -- Saturate a shifted word (R269, R271); `sh` is the sh bit, true for ASR.
  | ssat (e : Enc) (rd : Reg) (satImm : BitVec 5) (sh : Bool) (imm5 : BitVec 5) (rm : Reg)
  | usat (e : Enc) (rd : Reg) (satImm : BitVec 5) (sh : Bool) (imm5 : BitVec 5) (rm : Reg)
  -- Saturate two halfwords (R270, R272).
  | ssat16 (e : Enc) (rd : Reg) (satImm : BitVec 4) (rm : Reg)
  | usat16 (e : Enc) (rd : Reg) (satImm : BitVec 4) (rm : Reg)
  -- MUL (R291).
  | mul (e : Enc) (s : Bool) (rd rm rs : Reg)
  -- MLA (R292).
  | mla (e : Enc) (s : Bool) (rd rm rs rn : Reg)
  -- MLS (R293).
  | mls (e : Enc) (rd rm rs rn : Reg)
  -- UMAAL (R296).
  | umaal (e : Enc) (rdLo rdHi rm rs : Reg)
  -- Long multiplies (R294, R295, R297, R298).
  | umull (e : Enc) (s : Bool) (rdLo rdHi rm rs : Reg)
  | umlal (e : Enc) (s : Bool) (rdLo rdHi rm rs : Reg)
  | smull (e : Enc) (s : Bool) (rdLo rdHi rm rs : Reg)
  | smlal (e : Enc) (s : Bool) (rdLo rdHi rm rs : Reg)
  -- SMLAxy (R301); `x`, `y` true select the top half.
  | smlaxy (e : Enc) (x y : Bool) (rd rm rs rn : Reg)
  -- SMLAWy (R302).
  | smlawy (e : Enc) (y : Bool) (rd rm rs rn : Reg)
  -- SMULWy (R300).
  | smulwy (e : Enc) (y : Bool) (rd rm rs : Reg)
  -- SMLALxy (R303).
  | smlalxy (e : Enc) (x y : Bool) (rdLo rdHi rm rs : Reg)
  -- SMULxy (R299).
  | smulxy (e : Enc) (x y : Bool) (rd rm rs : Reg)
  -- Dual multiplies (R304, R307) and top-word multiply (R310); `x` is the X or R bit.
  | smuad (e : Enc) (x : Bool) (rd rm rs : Reg)
  | smusd (e : Enc) (x : Bool) (rd rm rs : Reg)
  | smmul (e : Enc) (x : Bool) (rd rm rs : Reg)
  -- Dual and top-word multiply-accumulate (R305, R308, R311, R312).
  | smlad (e : Enc) (x : Bool) (rd rm rs rn : Reg)
  | smlsd (e : Enc) (x : Bool) (rd rm rs rn : Reg)
  | smmla (e : Enc) (x : Bool) (rd rm rs rn : Reg)
  | smmls (e : Enc) (x : Bool) (rd rm rs rn : Reg)
  -- Dual long multiply-accumulate (R306, R309).
  | smlald (e : Enc) (x : Bool) (rdLo rdHi rm rs : Reg)
  | smlsld (e : Enc) (x : Bool) (rdLo rdHi rm rs : Reg)
  -- XScale multiply with internal accumulate (R313, R314).
  | mia (c : Cond) (rm rs : Reg)
  | miaph (c : Cond) (rm rs : Reg)
  -- MIAxy (R315).
  | miaxy (c : Cond) (x y : Bool) (rm rs : Reg)
  -- Accumulator moves (R345, R346).
  | mar (c : Cond) (rdLo rdHi : Reg)
  | mra (c : Cond) (rdLo rdHi : Reg)
  -- Divide (R316, R317).
  | sdiv (e : Enc) (rd rn rm : Reg)
  | udiv (e : Enc) (rd rn rm : Reg)
  -- One-operand word operations (R352, R399 to R402).
  | clz (e : Enc) (rd rm : Reg)
  | rev (e : Enc) (rd rm : Reg)
  | rev16 (e : Enc) (rd rm : Reg)
  | rbit (e : Enc) (rd rm : Reg)
  | revsh (e : Enc) (rd rm : Reg)
  -- BFC (R381).
  | bfc (e : Enc) (rd : Reg) (lsb msb : BitVec 5)
  -- BFI (R382).
  | bfi (e : Enc) (rd rn : Reg) (lsb msb : BitVec 5)
  -- Bit field extract (R383, R384).
  | sbfx (e : Enc) (rd rn : Reg) (lsb widthm1 : BitVec 5)
  | ubfx (e : Enc) (rd rn : Reg) (lsb widthm1 : BitVec 5)
  -- Pack halfwords (R385, R386).
  | pkhbt (e : Enc) (rd rn rm : Reg) (imm5 : BitVec 5)
  | pkhtb (e : Enc) (rd rn rm : Reg) (imm5 : BitVec 5)
  -- Extend (R387 to R392); `rot` is the card's sh.
  | sxth (e : Enc) (rd rm : Reg) (rot : BitVec 2)
  | sxtb16 (e : Enc) (rd rm : Reg) (rot : BitVec 2)
  | sxtb (e : Enc) (rd rm : Reg) (rot : BitVec 2)
  | uxth (e : Enc) (rd rm : Reg) (rot : BitVec 2)
  | uxtb16 (e : Enc) (rd rm : Reg) (rot : BitVec 2)
  | uxtb (e : Enc) (rd rm : Reg) (rot : BitVec 2)
  -- Extend and add (R393 to R398).
  | sxtah (e : Enc) (rd rn rm : Reg) (rot : BitVec 2)
  | sxtab16 (e : Enc) (rd rn rm : Reg) (rot : BitVec 2)
  | sxtab (e : Enc) (rd rn rm : Reg) (rot : BitVec 2)
  | uxtah (e : Enc) (rd rn rm : Reg) (rot : BitVec 2)
  | uxtab16 (e : Enc) (rd rn rm : Reg) (rot : BitVec 2)
  | uxtab (e : Enc) (rd rn rm : Reg) (rot : BitVec 2)
  -- Select bytes (R403).
  | sel (e : Enc) (rd rn rm : Reg)
  -- IT (R421).
  | it (firstcond mask : BitVec 4)
  -- B (R422).
  | b (t : BTarget)
  -- BL (R423).
  | bl (t : BlTarget)
  -- BLX with a label (R425).
  | blxLabel (t : BlxTarget)
  -- Branches to a register (R424, R426, R427); the Thumb forms of BX and BLX are 16 bits.
  | bx (e : Enc) (rm : Reg)
  | blxReg (e : Enc) (rm : Reg)
  | bxj (e : Enc) (rm : Reg)
  -- Compare and branch (R428, R429); i : imm5 is the offset field.
  | cbz (i : Bool) (imm5 : BitVec 5) (rn : BitVec 3)
  | cbnz (i : Bool) (imm5 : BitVec 5) (rn : BitVec 3)
  -- Table branch (R430, R431).
  | tbb (rn rm : Reg)
  | tbh (rn rm : Reg)
  -- MRS (R451); `spsr` is the R bit.
  | mrs (e : Enc) (spsr : Bool) (rd : Reg)
  -- MSR from a register (R452); `mask` is f : s : x : c.
  | msrReg (e : Enc) (spsr : Bool) (mask : BitVec 4) (rm : Reg)
  -- MSR with an immediate, A32 only (R453).
  | msrImm (c : Cond) (spsr : Bool) (mask rotate : BitVec 4) (imm8 : BitVec 8)
  -- CPSIE, CPSID (R454, R455); `thumb` selects the T32 encoding; `m` is the M bit.
  | cpsie (thumb m a i f : Bool) (mode : BitVec 5)
  | cpsid (thumb m a i f : Bool) (mode : BitVec 5)
  -- CPS (R456).
  | cps (thumb : Bool) (mode : BitVec 5)
  -- SETEND (R457); `big` is the E bit.
  | setend (thumb big : Bool)
  -- Loads and stores (R480 to R487).
  | ldr (e : Enc) (rd : Reg) (m : MemForm)
  | ldrb (e : Enc) (rd : Reg) (m : MemForm)
  | ldrsb (e : Enc) (rd : Reg) (m : MemForm)
  | ldrh (e : Enc) (rd : Reg) (m : MemForm)
  | ldrsh (e : Enc) (rd : Reg) (m : MemForm)
  | str (e : Enc) (rd : Reg) (m : MemForm)
  | strb (e : Enc) (rd : Reg) (m : MemForm)
  | strh (e : Enc) (rd : Reg) (m : MemForm)
  -- The User-mode-privilege forms (R488 to R495).
  | ldrt (e : Enc) (rd : Reg) (m : MemFormT)
  | ldrbt (e : Enc) (rd : Reg) (m : MemFormT)
  | ldrsbt (e : Enc) (rd : Reg) (m : MemFormT)
  | ldrht (e : Enc) (rd : Reg) (m : MemFormT)
  | ldrsht (e : Enc) (rd : Reg) (m : MemFormT)
  | strt (e : Enc) (rd : Reg) (m : MemFormT)
  | strbt (e : Enc) (rd : Reg) (m : MemFormT)
  | strht (e : Enc) (rd : Reg) (m : MemFormT)
deriving DecidableEq, Repr
end Sys2Proof
end

