-- ==== Sys2Proof/WellFormed.lean ====
section
/-! DEFINITION. Which terms of `Instr` some row of spec/opcode_table.json encodes: the `require` of each row
(R114) and the operand form its instruction set has (R112, R132, R476). -/

namespace Sys2Proof

/-- True for the Thumb encodings. -/
def Enc.isThumb : Enc → Bool
  | .a32 _ => false
  | .thumb => true

/-- The `<Operand2>` forms an instruction set has (R132). -/
def Op2.wf (e : Enc) : Op2 → Bool
  | .immA _ _ => !e.isThumb
  | .immT _ => e.isThumb
  | .reg _ _ _ => true
  | .regReg _ _ _ => !e.isThumb

/-- `<Operand2>` is the register form `Rm, RRX` (R138). -/
def Op2.isRrx : Op2 → Bool
  | .reg _ ty imm5 => ty == .ror && imm5 == 0#5
  | .immA _ _ => false
  | .immT _ => false
  | .regReg _ _ _ => false

/-- The addressing forms of word and byte loads and stores (R476); `load` admits the literal form, and a
T32 form with Rn = 1111 is no row. -/
def MemForm.wfWord (e : Enc) (load : Bool) : MemForm → Bool
  | .aImm _ _ _ _ => !e.isThumb
  | .aReg _ _ _ _ _ _ => !e.isThumb
  | .aImm8 _ _ _ _ => false
  | .aReg0 _ _ _ _ => false
  | .tImm12 rn _ => e.isThumb && rn != 15#4
  | .tImm8 idx add rn _ => e.isThumb && rn != 15#4 && !(idx == .offset && add)
  | .tReg rn _ _ => e.isThumb && rn != 15#4
  | .tLit _ _ => e.isThumb && load

/-- The addressing forms of halfword and signed loads and stores (R476). -/
def MemForm.wfHalf (e : Enc) (load : Bool) : MemForm → Bool
  | .aImm _ _ _ _ => false
  | .aReg _ _ _ _ _ _ => false
  | .aImm8 _ _ _ _ => !e.isThumb
  | .aReg0 _ _ _ _ => !e.isThumb
  | .tImm12 rn _ => e.isThumb && rn != 15#4
  | .tImm8 idx add rn _ => e.isThumb && rn != 15#4 && !(idx == .offset && add)
  | .tReg rn _ _ => e.isThumb && rn != 15#4
  | .tLit _ _ => e.isThumb && load

/-- The addressing forms of the word and byte `T` instructions (R476). -/
def MemFormT.wfWord (e : Enc) : MemFormT → Bool
  | .aImm _ _ _ => !e.isThumb
  | .aReg _ _ _ _ _ => !e.isThumb
  | .aImm8 _ _ _ => false
  | .aReg0 _ _ _ => false
  | .tImm8 rn _ => e.isThumb && rn != 15#4

/-- The addressing forms of the halfword and signed `T` instructions (R476). -/
def MemFormT.wfHalf (e : Enc) : MemFormT → Bool
  | .aImm _ _ _ => false
  | .aReg _ _ _ _ _ => false
  | .aImm8 _ _ _ => !e.isThumb
  | .aReg0 _ _ _ => !e.isThumb
  | .tImm8 rn _ => e.isThumb && rn != 15#4

/-- The T3 encoding of B has a condition below 1110 (R422). -/
def BTarget.wf : BTarget → Bool
  | .a32 _ _ => true
  | .t3 c _ _ _ _ _ => c != .al
  | .t4 _ _ _ _ _ => true

/-- Some row of the opcode table encodes the term. -/
def Instr.wellFormed : Instr → Bool
  | .and e s rd _ o | .eor e s rd _ o | .sub e s rd _ o | .add e s rd _ o =>
    o.wf e && !(e.isThumb && rd == 15#4 && s)
  | .rsb e _ _ _ o | .adc e _ _ _ o | .sbc e _ _ _ o | .bic e _ _ _ o => o.wf e
  | .orr e _ _ rn o => o.wf e && !(e.isThumb && rn == 15#4)
  | .rsc c _ _ _ o => o.wf (.a32 c)
  | .orn _ _ rn o => o.wf .thumb && rn != 15#4
  | .tst e _ o | .teq e _ o | .cmp e _ o | .cmn e _ o => o.wf e
  | .mov e _ _ o => o.wf e && !o.isRrx
  | .mvn e _ _ o => o.wf e
  | .mul e s _ _ _ => !(e.isThumb && s)
  | .mla e s _ _ _ rn => !(e.isThumb && s) && !(e.isThumb && rn == 15#4)
  | .umull e s _ _ _ _ | .umlal e s _ _ _ _ | .smull e s _ _ _ _ | .smlal e s _ _ _ _ => !(e.isThumb && s)
  | .usada8 _ _ _ _ rn => rn != 15#4
  | .smlad _ _ _ _ _ rn | .smlsd _ _ _ _ _ rn | .smmla _ _ _ _ _ rn => rn != 15#4
  | .smlaxy e _ _ _ _ _ rn => !(e.isThumb && rn == 15#4)
  | .smlawy e _ _ _ _ rn => !(e.isThumb && rn == 15#4)
  | .ssat e _ _ sh imm5 _ | .usat e _ _ sh imm5 _ => !(e.isThumb && sh && imm5 == 0#5)
  | .addw _ rn _ | .subw _ rn _ => rn != 15#4
  | .bfi _ _ rn _ _ => rn != 15#4
  | .sxtah _ _ rn _ _ | .sxtab16 _ _ rn _ _ | .sxtab _ _ rn _ _ | .uxtah _ _ rn _ _ | .uxtab16 _ _ rn _ _
  | .uxtab _ _ rn _ _ => rn != 15#4
  | .it _ mask => mask != 0#4
  | .b t => t.wf
  | .msrReg _ _ mask _ => mask != 0#4
  | .msrImm _ _ mask _ _ => mask != 0#4
  | .cpsie _ m a i f mode | .cpsid _ m a i f mode => (m || mode == 0#5) && (a || i || f)
  | .ldr e _ m => m.wfWord e true
  | .ldrb e rd m => m.wfWord e true && !(e.isThumb && rd == 15#4)
  | .ldrsb e rd m | .ldrh e rd m | .ldrsh e rd m => m.wfHalf e true && !(e.isThumb && rd == 15#4)
  | .str e _ m | .strb e _ m => m.wfWord e false
  | .strh e _ m => m.wfHalf e false
  | .ldrt e _ m | .ldrbt e _ m | .strt e _ m | .strbt e _ m => m.wfWord e
  | .ldrsbt e _ m | .ldrht e _ m | .ldrsht e _ m | .strht e _ m => m.wfHalf e
  | .rrx _ _ _ _ | .adr _ _ _ | .subsPcLr _ | .lsl _ _ _ _ | .lsr _ _ _ _ | .asr _ _ _ _ | .ror _ _ _ _
  | .movw _ _ _ | .movt _ _ _ | .qadd _ _ _ _ | .qsub _ _ _ _ | .qdadd _ _ _ _
  | .qdsub _ _ _ _ | .sadd16 _ _ _ _ | .qadd16 _ _ _ _ | .shadd16 _ _ _ _ | .uadd16 _ _ _ _ | .uqadd16 _ _ _ _
  | .uhadd16 _ _ _ _ | .ssub16 _ _ _ _ | .qsub16 _ _ _ _ | .shsub16 _ _ _ _ | .usub16 _ _ _ _ | .uqsub16 _ _ _ _
  | .uhsub16 _ _ _ _ | .sadd8 _ _ _ _ | .qadd8 _ _ _ _ | .shadd8 _ _ _ _ | .uadd8 _ _ _ _ | .uqadd8 _ _ _ _
  | .uhadd8 _ _ _ _ | .ssub8 _ _ _ _ | .qsub8 _ _ _ _ | .shsub8 _ _ _ _ | .usub8 _ _ _ _ | .uqsub8 _ _ _ _
  | .uhsub8 _ _ _ _ | .sasx _ _ _ _ | .qasx _ _ _ _ | .shasx _ _ _ _ | .uasx _ _ _ _ | .uqasx _ _ _ _
  | .uhasx _ _ _ _ | .ssax _ _ _ _ | .qsax _ _ _ _ | .shsax _ _ _ _ | .usax _ _ _ _ | .uqsax _ _ _ _
  | .uhsax _ _ _ _ | .usad8 _ _ _ _ | .ssat16 _ _ _ _ | .usat16 _ _ _ _ | .mls _ _ _ _ _ | .umaal _ _ _ _ _
  | .smulwy _ _ _ _ _ | .smlalxy _ _ _ _ _ _ _ | .smulxy _ _ _ _ _ _ | .smuad _ _ _ _ _ | .smusd _ _ _ _ _
  | .smmul _ _ _ _ _ | .smmls _ _ _ _ _ _ | .smlald _ _ _ _ _ _ | .smlsld _ _ _ _ _ _ | .mia _ _ _ | .miaph _ _ _
  | .miaxy _ _ _ _ _ | .mar _ _ _ | .mra _ _ _ | .sdiv _ _ _ _ | .udiv _ _ _ _ | .clz _ _ _ | .rev _ _ _
  | .rev16 _ _ _ | .rbit _ _ _ | .revsh _ _ _ | .bfc _ _ _ _ | .sbfx _ _ _ _ _ | .ubfx _ _ _ _ _ | .pkhbt _ _ _ _ _
  | .pkhtb _ _ _ _ _ | .sxth _ _ _ _ | .sxtb16 _ _ _ _ | .sxtb _ _ _ _ | .uxth _ _ _ _ | .uxtb16 _ _ _ _
  | .uxtb _ _ _ _ | .sel _ _ _ _ | .bl _ | .blxLabel _ | .bx _ _ | .blxReg _ _ | .bxj _ _ | .cbz _ _ _ | .cbnz _ _ _
  | .tbb _ _ | .tbh _ _ | .mrs _ _ _ | .cps _ _ | .setend _ _ => true

end Sys2Proof
end

