-- ==== Sys2Proof/Decode.lean ====
section
/-! DEFINITION. The encodings of spec/opcode_table.json as patterns, the total decoder (R114) and the encoder
written from the same patterns. A pattern lists a word's segments from bit 31 (or 15) down, as the rules do. -/

namespace Sys2Proof

/-- A segment of an encoding: `k w v` is w fixed bits of value v, `f w` a field of w bits, `fx w v` a field
that a row's `require` keeps different from v. -/
inductive Seg where
  | k (w v : Nat)
  | f (w : Nat)
  | fx (w v : Nat)
deriving DecidableEq, Repr

/-- The segments of an encoding, most significant first. -/
abbrev Pat := List Seg

/-- The number of bits of a segment. -/
def Seg.width : Seg → Nat
  | .k w _ => w
  | .f w => w
  | .fx w _ => w

/-- The number of bits of a pattern. -/
def Pat.width : List Seg → Nat
  | [] => 0
  | g :: p => g.width + Pat.width p

/-- The word whose fields, most significant first, hold the given values. -/
def assemble : List Seg → List Nat → Nat
  | .k _ v :: p, xs => v * 2 ^ Pat.width p + assemble p xs
  | .f _ :: p, x :: xs => x * 2 ^ Pat.width p + assemble p xs
  | .fx _ _ :: p, x :: xs => x * 2 ^ Pat.width p + assemble p xs
  | _, _ => 0

/-- The field values of a word that matches the pattern, most significant first. -/
def split : List Seg → Nat → Option (List Nat)
  | [], w => if w = 0 then some [] else none
  | .k _ v :: p, w => if w / 2 ^ Pat.width p = v then split p (w % 2 ^ Pat.width p) else none
  | .f n :: p, w =>
    if w / 2 ^ Pat.width p < 2 ^ n then
      (split p (w % 2 ^ Pat.width p)).map (fun xs => (w / 2 ^ Pat.width p) :: xs)
    else none
  | .fx n v :: p, w =>
    if w / 2 ^ Pat.width p < 2 ^ n ∧ w / 2 ^ Pat.width p ≠ v then
      (split p (w % 2 ^ Pat.width p)).map (fun xs => (w / 2 ^ Pat.width p) :: xs)
    else none

/-- A row: its pattern, and the instruction its field values stand for; `none` where a `require` that is not
about one field fails. -/
structure Row where
  pat : Pat
  build : List Nat → Option Instr

/-- The instruction a row reads from a word. -/
def Row.read (r : Row) (w : Nat) : Option Instr :=
  match split r.pat w with
  | some xs => r.build xs
  | none => none

/-- The instruction of the first row that reads one. -/
def readRows : List Row → Nat → Option Instr
  | [], _ => none
  | r :: rs, w =>
    match r.read w with
    | some i => some i
    | none => readRows rs w

/-! ### Fields -/

/-- The condition of an encoded `cond` field below 1111 (R131). -/
def condOf (n : Nat) : Cond :=
  match n with
  | 0 => .eq | 1 => .ne | 2 => .cs | 3 => .cc | 4 => .mi | 5 => .pl | 6 => .vs | 7 => .vc
  | 8 => .hi | 9 => .ls | 10 => .ge | 11 => .lt | 12 => .gt | 13 => .le | _ => .al

/-- The encoded `cond` field (R131). -/
def Cond.num : Cond → Nat
  | .eq => 0 | .ne => 1 | .cs => 2 | .cc => 3 | .mi => 4 | .pl => 5 | .vs => 6 | .vc => 7
  | .hi => 8 | .ls => 9 | .ge => 10 | .lt => 11 | .gt => 12 | .le => 13 | .al => 14

/-- The shift type of an encoded `type` field (R117). -/
def shiftOf (n : Nat) : ShiftType :=
  match n with
  | 0 => .lsl | 1 => .lsr | 2 => .asr | _ => .ror

/-- The encoded `type` field (R117). -/
def ShiftType.num : ShiftType → Nat
  | .lsl => 0 | .lsr => 1 | .asr => 2 | .ror => 3

/-- A one-bit field. -/
def bitOf (n : Nat) : Bool := n == 1

/-- A four-bit register field. -/
def regOf (n : Nat) : Reg := BitVec.ofNat 4 n

/-- A five-bit field. -/
def five (n : Nat) : BitVec 5 := BitVec.ofNat 5 n

/-- The P and W bits of an addressing form (R476). -/
def Idx.p : Idx → Nat
  | .offset => 1 | .pre => 1 | .post => 0

/-- See `Idx.p`. -/
def Idx.w : Idx → Nat
  | .offset => 0 | .pre => 1 | .post => 0

/-- The A32 condition field: any value but 1111 (R116). -/
def cnd : Seg := .fx 4 15

/-! ### Formats -/

/-- R117 DP immediate: cond, S, Rn, Rd, rotate, imm8. -/
def pDpImm (op : Nat) : Pat :=
  [cnd, .k 3 1, .k 4 op, .f 1, .f 4, .f 4, .f 4, .f 8]

/-- R117 DP register, constant shift: cond, S, Rn, Rd, imm5, type, Rm. -/
def pDpReg (op : Nat) : Pat :=
  [cnd, .k 3 0, .k 4 op, .f 1, .f 4, .f 4, .f 5, .f 2, .k 1 0, .f 4]

/-- R117 DP register, register shift: cond, S, Rn, Rd, Rs, type, Rm. -/
def pDpRegReg (op : Nat) : Pat :=
  [cnd, .k 3 0, .k 4 op, .f 1, .f 4, .f 4, .f 4, .k 1 0, .f 2, .k 1 1, .f 4]

/-- R117: the tests have S = 1 and Rd = 0000. -/
def pTestImm (op : Nat) : Pat :=
  [cnd, .k 3 1, .k 4 op, .k 1 1, .f 4, .k 4 0, .f 4, .f 8]

/-- See `pTestImm`. -/
def pTestReg (op : Nat) : Pat :=
  [cnd, .k 3 0, .k 4 op, .k 1 1, .f 4, .k 4 0, .f 5, .f 2, .k 1 0, .f 4]

/-- See `pTestImm`. -/
def pTestRegReg (op : Nat) : Pat :=
  [cnd, .k 3 0, .k 4 op, .k 1 1, .f 4, .k 4 0, .f 4, .k 1 0, .f 2, .k 1 1, .f 4]

/-- R117: MOV and MVN have Rn = 0000. -/
def pMovImm (op : Nat) : Pat :=
  [cnd, .k 3 1, .k 4 op, .f 1, .k 4 0, .f 4, .f 4, .f 8]

/-- See `pMovImm`; `sh` and `ty` are the imm5 and type segments, which MOV and RRX share out (R138). -/
def pMovReg (op : Nat) (sh ty : Seg) : Pat :=
  [cnd, .k 3 0, .k 4 op, .f 1, .k 4 0, .f 4, sh, ty, .k 1 0, .f 4]

/-- See `pMovImm`. -/
def pMovRegReg (op : Nat) : Pat :=
  [cnd, .k 3 0, .k 4 op, .f 1, .k 4 0, .f 4, .f 4, .k 1 0, .f 2, .k 1 1, .f 4]

/-- R117 16-bit immediate: cond, imm4, Rd, imm12. -/
def pImm16 (op : Nat) : Pat :=
  [cnd, .k 4 3, .k 4 op, .f 4, .f 4, .f 12]

/-- R204: cond, Rn, Rd, Rm. -/
def pSatAdd (op : Nat) : Pat :=
  [cnd, .k 5 2, .k 2 op, .k 1 0, .f 4, .f 4, .k 4 0, .k 4 5, .f 4]

/-- R230, R403: cond, Rn, Rd, Rm. -/
def pMedia (op op2 : Nat) : Pat :=
  [cnd, .k 8 op, .f 4, .f 4, .k 4 15, .k 3 op2, .k 1 1, .f 4]

/-- R267, R268, R316, R317: cond, [19:16], [15:12], [11:8], [3:0]. -/
def pMedia4 (op : Nat) (n : Seg) (op2 : Nat) : Pat :=
  [cnd, .k 8 op, .f 4, n, .f 4, .k 4 op2, .f 4]

/-- R269: cond, sat_imm, Rd, imm5, sh, Rm. -/
def pSat (op : Nat) : Pat :=
  [cnd, .k 7 op, .f 5, .f 4, .f 5, .f 1, .k 2 1, .f 4]

/-- R270: cond, sat_imm, Rd, Rm. -/
def pSat16 (op : Nat) : Pat :=
  [cnd, .k 8 op, .f 4, .f 4, .k 4 15, .k 4 3, .f 4]

/-- R117 multiply: cond, S, [19:16], [15:12], [11:8], [3:0]. -/
def pMul (op : Nat) (s n : Seg) : Pat :=
  [cnd, .k 4 0, .k 3 op, s, .f 4, n, .f 4, .k 4 9, .f 4]

/-- R117 halfword multiply: cond, [19:16], [15:12], [11:8], y, x, [3:0]. -/
def pHalfXY (op : Nat) (n : Seg) : Pat :=
  [cnd, .k 8 op, .f 4, n, .f 4, .k 1 1, .f 1, .f 1, .k 1 0, .f 4]

/-- R300, R302: cond, [19:16], [15:12], [11:8], y, [3:0]. -/
def pHalfY (n : Seg) (b : Nat) : Pat :=
  [cnd, .k 8 18, .f 4, n, .f 4, .k 1 1, .f 1, .k 1 b, .k 1 0, .f 4]

/-- R304 to R312: cond, [19:16], [15:12], [11:8], X or R, [3:0]. -/
def pDual (op : Nat) (n : Seg) (op2 : Nat) : Pat :=
  [cnd, .k 8 op, .f 4, n, .f 4, .k 2 op2, .f 1, .k 1 1, .f 4]

/-- R313, R314: cond, Rs, Rm. -/
def pMia (op : Nat) : Pat :=
  [cnd, .k 8 226, .k 4 op, .f 4, .k 8 1, .f 4]

/-- R315: cond, x, y, Rs, Rm. -/
def pMiaXY : Pat :=
  [cnd, .k 8 226, .k 2 3, .f 1, .f 1, .f 4, .k 8 1, .f 4]

/-- R345, R346: cond, RdHi, RdLo. -/
def pAcc (l : Nat) : Pat :=
  [cnd, .k 7 98, .k 1 l, .f 4, .f 4, .k 12 0]

/-- R352, R399 to R402: cond, Rd, Rm. -/
def pOne (op op2 : Nat) : Pat :=
  [cnd, .k 8 op, .k 4 15, .f 4, .k 4 15, .k 4 op2, .f 4]

/-- R381 to R384: cond, msb or widthm1, Rd, lsb, Rn. -/
def pBf (op : Nat) (op2 : Nat) (n : Seg) : Pat :=
  [cnd, .k 7 op, .f 5, .f 4, .f 5, .k 3 op2, n]

/-- R385, R386: cond, Rn, Rd, imm5, Rm. -/
def pPkh (tb : Nat) : Pat :=
  [cnd, .k 8 104, .f 4, .f 4, .f 5, .k 1 tb, .k 2 1, .f 4]

/-- R387 to R398: cond, Rn, Rd, rotate, Rm. -/
def pExt (op : Nat) (n : Seg) : Pat :=
  [cnd, .k 8 op, n, .f 4, .f 2, .k 2 0, .k 4 7, .f 4]

/-- R422, R423: cond, imm24. -/
def pBranch (l : Nat) : Pat :=
  [cnd, .k 3 5, .k 1 l, .f 24]

/-- R425: H, imm24. -/
def pBlx : Pat :=
  [.k 4 15, .k 3 5, .f 1, .f 24]

/-- R424, R426, R427: cond, Rm. -/
def pBx (op : Nat) : Pat :=
  [cnd, .k 8 18, .k 4 15, .k 4 15, .k 4 15, .k 4 op, .f 4]

/-- R451: cond, R, Rd. -/
def pMrs : Pat :=
  [cnd, .k 5 2, .f 1, .k 2 0, .k 4 15, .f 4, .k 12 0]

/-- R452: cond, R, mask, Rm. -/
def pMsrReg : Pat :=
  [cnd, .k 5 2, .f 1, .k 2 2, .fx 4 0, .k 4 15, .k 8 0, .f 4]

/-- R453: cond, R, mask, rotate, imm8. -/
def pMsrImm : Pat :=
  [cnd, .k 5 6, .f 1, .k 2 2, .fx 4 0, .k 4 15, .f 4, .f 8]

/-- R454, R455: M, A, I, F, mode. -/
def pCpsI (imod : Nat) : Pat :=
  [.k 12 3856, .k 2 imod, .f 1, .k 1 0, .k 7 0, .f 1, .f 1, .f 1, .k 1 0, .f 5]

/-- R456: mode. -/
def pCps : Pat :=
  [.k 12 3856, .k 2 0, .k 1 1, .k 12 0, .f 5]

/-- R457: E. -/
def pSetend : Pat :=
  [.k 16 61697, .k 6 0, .f 1, .k 9 0]

/-- R476 A32 word or byte, immediate: cond, U, Rn, Rd, imm12. -/
def pMemImm (p b w l : Nat) : Pat :=
  [cnd, .k 3 2, .k 1 p, .f 1, .k 1 b, .k 1 w, .k 1 l, .f 4, .f 4, .f 12]

/-- R476 A32 word or byte, register: cond, U, Rn, Rd, imm5, type, Rm. -/
def pMemReg (p b w l : Nat) : Pat :=
  [cnd, .k 3 3, .k 1 p, .f 1, .k 1 b, .k 1 w, .k 1 l, .f 4, .f 4, .f 5, .f 2, .k 1 0, .f 4]

/-- R476 A32 halfword or signed, immediate: cond, U, Rn, Rd, imm4H, imm4L. -/
def pMemImm8 (p w l sh : Nat) : Pat :=
  [cnd, .k 3 0, .k 1 p, .f 1, .k 1 1, .k 1 w, .k 1 l, .f 4, .f 4, .f 4, .k 1 1, .k 2 sh, .k 1 1, .f 4]

/-- R476 A32 halfword or signed, register: cond, U, Rn, Rd, Rm. -/
def pMemReg0 (p w l sh : Nat) : Pat :=
  [cnd, .k 3 0, .k 1 p, .f 1, .k 1 0, .k 1 w, .k 1 l, .f 4, .f 4, .k 4 0, .k 1 1, .k 2 sh, .k 1 1, .f 4]

/-- R118 DP modified immediate: i, S, Rn, imm3, Rd, imm8. -/
def tDpImm (op : Nat) (s n d : Seg) : Pat :=
  [.k 5 30, .f 1, .k 1 0, .k 4 op, s, n, .k 1 0, .f 3, d, .f 8]

/-- R118 DP shifted register: S, Rn, imm3, Rd, imm2, type, Rm. -/
def tDpReg (op : Nat) (s n d : Seg) : Pat :=
  [.k 7 117, .k 4 op, s, n, .k 1 0, .f 3, d, .f 2, .f 2, .f 4]

/-- R341, R351 MOV and RRX: S, imm3, Rd, imm2, type, Rm. -/
def tMovReg (s3 s2 ty : Seg) : Pat :=
  [.k 7 117, .k 4 2, .f 1, .k 4 15, .k 1 0, s3, .f 4, s2, ty, .f 4]

/-- R347 to R350: S, Rm, Rd, Rs. -/
def tShift (op : Nat) : Pat :=
  [.k 8 250, .k 1 0, .k 2 op, .f 1, .f 4, .k 4 15, .f 4, .k 4 0, .f 4]

/-- R118 DP plain immediate: i, Rn or imm4, imm3, Rd, imm8. -/
def tPlain (op : Nat) (n : Seg) : Pat :=
  [.k 5 30, .f 1, .k 1 1, .k 5 op, n, .k 1 0, .f 3, .f 4, .f 8]

/-- R214: imm8. -/
def tSubs : Pat :=
  [.k 16 62430, .k 8 143, .f 8]

/-- R118 DP register: Rn, Rd, Rm. -/
def tReg (op op2 : Nat) : Pat :=
  [.k 8 250, .k 4 op, .f 4, .k 4 15, .f 4, .k 4 op2, .f 4]

/-- R387 to R398: Rn, Rd, rotate, Rm. -/
def tExt (op : Nat) (n : Seg) : Pat :=
  [.k 8 250, .k 1 0, .k 3 op, n, .k 4 15, .f 4, .k 2 2, .f 2, .f 4]

/-- R118 multiply: Rm, Rn, Rd, Rs. -/
def tMul (op : Nat) (n : Seg) (op2 : Nat) : Pat :=
  [.k 9 502, .k 3 op, .f 4, n, .f 4, .k 4 op2, .f 4]

/-- R118 multiply with X, R or y: Rm, Rn, Rd, X, Rs. -/
def tMulX (op : Nat) (n : Seg) : Pat :=
  [.k 9 502, .k 3 op, .f 4, n, .f 4, .k 3 0, .f 1, .f 4]

/-- R299, R301: Rm, Rn, Rd, x, y, Rs. -/
def tMulXY (n : Seg) : Pat :=
  [.k 9 502, .k 3 1, .f 4, n, .f 4, .k 2 0, .f 1, .f 1, .f 4]

/-- R118 long multiply: Rm, RdLo, RdHi, Rs. -/
def tLong (op op2 : Nat) : Pat :=
  [.k 9 503, .k 3 op, .f 4, .f 4, .f 4, .k 4 op2, .f 4]

/-- R306, R309: Rm, RdLo, RdHi, X, Rs. -/
def tLongX (op op2 : Nat) : Pat :=
  [.k 9 503, .k 3 op, .f 4, .f 4, .f 4, .k 3 op2, .f 1, .f 4]

/-- R303: Rm, RdLo, RdHi, x, y, Rs. -/
def tLongXY : Pat :=
  [.k 9 503, .k 3 4, .f 4, .f 4, .f 4, .k 2 2, .f 1, .f 1, .f 4]

/-- R316, R317: Rn, Rd, Rm. -/
def tDiv (op : Nat) : Pat :=
  [.k 9 503, .k 3 op, .f 4, .k 4 15, .f 4, .k 4 15, .f 4]

/-- R269, R271: sh, Rm, imm3, Rd, imm2, sat_imm. -/
def tSat (op : Nat) (sh s3 s2 : Seg) : Pat :=
  [.k 7 121, .k 3 op, sh, .k 1 0, .f 4, .k 1 0, s3, .f 4, s2, .k 1 0, .f 5]

/-- R270, R272: Rm, Rd, sat_imm. -/
def tSat16 (op : Nat) : Pat :=
  [.k 7 121, .k 3 op, .k 2 2, .f 4, .k 4 0, .f 4, .k 4 0, .f 4]

/-- R381 to R384: Rn, imm3, Rd, imm2, msb or widthm1. -/
def tBf (op : Nat) (n : Seg) : Pat :=
  [.k 7 121, .k 5 op, n, .k 1 0, .f 3, .f 4, .f 2, .k 1 0, .f 5]

/-- R385, R386: Rn, imm3, Rd, imm2, Rm. -/
def tPkh (tb : Nat) : Pat :=
  [.k 12 3756, .f 4, .k 1 0, .f 3, .f 4, .f 2, .k 1 tb, .k 1 0, .f 4]

/-- R422 T3, the cond field cut into a fixed high part and the rest (cond < 1110): S, cond, imm6, J1, J2, imm11. -/
def tB3 (hi : Seg) (lo : Seg) : Pat :=
  [.k 5 30, .f 1, hi, lo, .f 6, .k 2 2, .f 1, .k 1 0, .f 1, .f 11]

/-- R422 T4, R423: S, imm10, J1, J2, imm11. -/
def tB4 (l : Nat) : Pat :=
  [.k 5 30, .f 1, .f 10, .k 1 1, .k 1 l, .f 1, .k 1 1, .f 1, .f 11]

/-- R425: S, imm10H, J1, J2, imm10L. -/
def tBlx : Pat :=
  [.k 5 30, .f 1, .f 10, .k 2 3, .f 1, .k 1 0, .f 1, .f 10, .k 1 0]

/-- R427: Rm. -/
def tBxj : Pat :=
  [.k 12 3900, .f 4, .k 16 36608]

/-- R430, R431: Rn, Rm. -/
def tTb (h : Nat) : Pat :=
  [.k 12 3725, .f 4, .k 11 1920, .k 1 h, .f 4]

/-- R451: R, Rd. -/
def tMrs : Pat :=
  [.k 11 1951, .f 1, .k 4 15, .k 4 8, .f 4, .k 8 0]

/-- R452: R, Rm, mask. -/
def tMsr : Pat :=
  [.k 11 1948, .f 1, .f 4, .k 4 8, .fx 4 0, .k 8 0]

/-- R454, R455: M, A, I, F, mode. -/
def tCpsI (imod : Nat) : Pat :=
  [.k 16 62383, .k 5 16, .k 2 imod, .f 1, .f 1, .f 1, .f 1, .f 5]

/-- R456: mode. -/
def tCps : Pat :=
  [.k 16 62383, .k 5 16, .k 2 0, .k 1 1, .k 3 0, .f 5]

/-- R476 T32 imm12: Rn, Rd, imm12. -/
def tMem12 (s sz l : Nat) (d : Seg) : Pat :=
  [.k 7 124, .k 1 s, .k 1 1, .k 2 sz, .k 1 l, .fx 4 15, d, .f 12]

/-- R476 T32 imm8, pre- or post-indexed: Rn, Rd, U, imm8. -/
def tMem8 (s sz l : Nat) (d : Seg) (p w : Nat) : Pat :=
  [.k 7 124, .k 1 s, .k 1 0, .k 2 sz, .k 1 l, .fx 4 15, d, .k 1 1, .k 1 p, .f 1, .k 1 w, .f 8]

/-- R476 T32 imm8, negative offset: Rn, Rd, imm8. -/
def tMem8N (s sz l : Nat) (d : Seg) : Pat :=
  [.k 7 124, .k 1 s, .k 1 0, .k 2 sz, .k 1 l, .fx 4 15, d, .k 4 12, .f 8]

/-- R476 T32 T form: Rn, Rd, imm8. -/
def tMemT (s sz l : Nat) : Pat :=
  [.k 7 124, .k 1 s, .k 1 0, .k 2 sz, .k 1 l, .fx 4 15, .f 4, .k 4 14, .f 8]

/-- R476 T32 register: Rn, Rd, imm2, Rm. -/
def tMemReg (s sz l : Nat) (d : Seg) : Pat :=
  [.k 7 124, .k 1 s, .k 1 0, .k 2 sz, .k 1 l, .fx 4 15, d, .k 6 0, .f 2, .f 4]

/-- R476 T32 literal: U, Rd, imm12. -/
def tMemLit (s sz : Nat) (d : Seg) : Pat :=
  [.k 7 124, .k 1 s, .f 1, .k 2 sz, .k 1 1, .k 4 15, d, .f 12]

/-- R421: firstcond, mask. -/
def hIt : Pat :=
  [.k 8 191, .f 4, .fx 4 0]

/-- R428, R429: i, imm5, Rn. -/
def hCbz (nz : Nat) : Pat :=
  [.k 4 11, .k 1 nz, .k 1 0, .f 1, .k 1 1, .f 5, .f 3]

/-- R424, R426: Rm. -/
def hBx (l : Nat) : Pat :=
  [.k 8 71, .k 1 l, .f 4, .k 3 0]

/-- R457: E. -/
def hSetend : Pat :=
  [.k 12 2917, .f 1, .k 3 0]

/-! ### Row builders -/

/-- The three A32 rows of a data-processing instruction. -/
def dpA (op : Nat) (mk : Cond → Bool → Reg → Reg → Op2 → Instr) : List Row := [
  ⟨pDpImm op, fun
    | [c, s, n, d, r, i] => some (mk (condOf c) (bitOf s) (regOf d) (regOf n)
        (.immA (regOf r) (BitVec.ofNat 8 i)))
    | _ => none⟩,
  ⟨pDpReg op, fun
    | [c, s, n, d, sh, t, m] => some (mk (condOf c) (bitOf s) (regOf d) (regOf n)
        (.reg (regOf m) (shiftOf t) (five sh)))
    | _ => none⟩,
  ⟨pDpRegReg op, fun
    | [c, s, n, d, rs, t, m] => some (mk (condOf c) (bitOf s) (regOf d) (regOf n)
        (.regReg (regOf m) (shiftOf t) (regOf rs)))
    | _ => none⟩]

/-- The three A32 rows of a test or compare. -/
def testA (op : Nat) (mk : Enc → Reg → Op2 → Instr) : List Row := [
  ⟨pTestImm op, fun
    | [c, n, r, i] => some (mk (.a32 (condOf c)) (regOf n) (.immA (regOf r) (BitVec.ofNat 8 i)))
    | _ => none⟩,
  ⟨pTestReg op, fun
    | [c, n, sh, t, m] => some (mk (.a32 (condOf c)) (regOf n) (.reg (regOf m) (shiftOf t) (five sh)))
    | _ => none⟩,
  ⟨pTestRegReg op, fun
    | [c, n, rs, t, m] => some (mk (.a32 (condOf c)) (regOf n) (.regReg (regOf m) (shiftOf t) (regOf rs)))
    | _ => none⟩]

/-- The immediate and register-shifted A32 rows of MOV and MVN. -/
def movA (op : Nat) (mk : Enc → Bool → Reg → Op2 → Instr) : List Row := [
  ⟨pMovImm op, fun
    | [c, s, d, r, i] => some (mk (.a32 (condOf c)) (bitOf s) (regOf d) (.immA (regOf r) (BitVec.ofNat 8 i)))
    | _ => none⟩,
  ⟨pMovRegReg op, fun
    | [c, s, d, rs, t, m] => some (mk (.a32 (condOf c)) (bitOf s) (regOf d)
        (.regReg (regOf m) (shiftOf t) (regOf rs)))
    | _ => none⟩]

/-- `imm12 = i : imm3 : imm8` (R118). -/
def imm12Of (i imm3 imm8 : Nat) : BitVec 12 := BitVec.ofNat 12 (i * 2048 + imm3 * 256 + imm8)

/-- `imm5 = imm3 : imm2` (R138). -/
def imm5Of (imm3 imm2 : Nat) : BitVec 5 := BitVec.ofNat 5 (imm3 * 4 + imm2)

/-- The T32 rows of AND, EOR, ADD, SUB: with S = 1 the pattern Rd = 1111 is a test (R118). -/
def dpT (op : Nat) (mk : Bool → Reg → Reg → Op2 → Instr) : List Row := [
  ⟨tDpImm op (.k 1 0) (.f 4) (.f 4), fun
    | [i, n, a, d, b] => some (mk false (regOf d) (regOf n) (.immT (imm12Of i a b)))
    | _ => none⟩,
  ⟨tDpImm op (.k 1 1) (.f 4) (.fx 4 15), fun
    | [i, n, a, d, b] => some (mk true (regOf d) (regOf n) (.immT (imm12Of i a b)))
    | _ => none⟩,
  ⟨tDpReg op (.k 1 0) (.f 4) (.f 4), fun
    | [n, a, d, b, t, m] => some (mk false (regOf d) (regOf n) (.reg (regOf m) (shiftOf t) (imm5Of a b)))
    | _ => none⟩,
  ⟨tDpReg op (.k 1 1) (.f 4) (.fx 4 15), fun
    | [n, a, d, b, t, m] => some (mk true (regOf d) (regOf n) (.reg (regOf m) (shiftOf t) (imm5Of a b)))
    | _ => none⟩]

/-- The T32 rows of the other data-processing instructions; `n` is the Rn segment. -/
def dpTn (op : Nat) (n : Seg) (mk : Bool → Reg → Reg → Op2 → Instr) : List Row := [
  ⟨tDpImm op (.f 1) n (.f 4), fun
    | [i, s, n, a, d, b] => some (mk (bitOf s) (regOf d) (regOf n) (.immT (imm12Of i a b)))
    | _ => none⟩,
  ⟨tDpReg op (.f 1) n (.f 4), fun
    | [s, n, a, d, b, t, m] => some (mk (bitOf s) (regOf d) (regOf n)
        (.reg (regOf m) (shiftOf t) (imm5Of a b)))
    | _ => none⟩]

/-- The T32 rows of a test or compare: S = 1, Rd = 1111 (R118). -/
def testT (op : Nat) (mk : Enc → Reg → Op2 → Instr) : List Row := [
  ⟨tDpImm op (.k 1 1) (.f 4) (.k 4 15), fun
    | [i, n, a, b] => some (mk .thumb (regOf n) (.immT (imm12Of i a b)))
    | _ => none⟩,
  ⟨tDpReg op (.k 1 1) (.f 4) (.k 4 15), fun
    | [n, a, b, t, m] => some (mk .thumb (regOf n) (.reg (regOf m) (shiftOf t) (imm5Of a b)))
    | _ => none⟩]

/-- A row with a condition, and registers in encoding order. -/
def rowC3 (p : Pat) (mk : Enc → Reg → Reg → Reg → Instr) : Row :=
  ⟨p, fun
    | [c, x, y, z] => some (mk (.a32 (condOf c)) (regOf x) (regOf y) (regOf z))
    | _ => none⟩

/-- See `rowC3`; four registers. -/
def rowC4 (p : Pat) (mk : Enc → Reg → Reg → Reg → Reg → Instr) : Row :=
  ⟨p, fun
    | [c, x, y, z, u] => some (mk (.a32 (condOf c)) (regOf x) (regOf y) (regOf z) (regOf u))
    | _ => none⟩

/-- See `rowC3`; two registers. -/
def rowC2 (p : Pat) (mk : Enc → Reg → Reg → Instr) : Row :=
  ⟨p, fun
    | [c, x, y] => some (mk (.a32 (condOf c)) (regOf x) (regOf y))
    | _ => none⟩

/-- A T32 row of three registers in encoding order. -/
def rowT3 (p : Pat) (mk : Enc → Reg → Reg → Reg → Instr) : Row :=
  ⟨p, fun
    | [x, y, z] => some (mk .thumb (regOf x) (regOf y) (regOf z))
    | _ => none⟩

/-- See `rowT3`; four registers. -/
def rowT4 (p : Pat) (mk : Enc → Reg → Reg → Reg → Reg → Instr) : Row :=
  ⟨p, fun
    | [x, y, z, u] => some (mk .thumb (regOf x) (regOf y) (regOf z) (regOf u))
    | _ => none⟩

/-- A T32 row that names one source register twice (R352, R399): the two fields must agree. -/
def rowTwice (p : Pat) (mk : Enc → Reg → Reg → Instr) : Row :=
  ⟨p, fun
    | [m2, d, m] => if m2 = m then some (mk .thumb (regOf d) (regOf m)) else none
    | _ => none⟩

/-- The A32 and T32 encodings of the 36 parallel instructions (R230): the prefix codes and operation codes. -/
def parA (ppp ooo : Nat) (mk : Enc → Reg → Reg → Reg → Instr) : Row :=
  rowC3 (pMedia (96 + ppp) ooo) (fun e n d m => mk e d n m)

/-- See `parA`. -/
def parT (ppp ooo : Nat) (mk : Enc → Reg → Reg → Reg → Instr) : Row :=
  rowT3 (tReg (8 + ooo) ppp) (fun e n d m => mk e d n m)

/-- One addressing form of an A32 word or byte load or store (R476). -/
def memA1 (idx : Idx) (b l : Nat) (mk : Enc → Reg → MemForm → Instr) : List Row := [
  ⟨pMemImm idx.p b idx.w l, fun
    | [c, u, n, d, i] => some (mk (.a32 (condOf c)) (regOf d) (.aImm idx (bitOf u) (regOf n) (BitVec.ofNat 12 i)))
    | _ => none⟩,
  ⟨pMemReg idx.p b idx.w l, fun
    | [c, u, n, d, sh, t, m] => some (mk (.a32 (condOf c)) (regOf d)
        (.aReg idx (bitOf u) (regOf n) (regOf m) (shiftOf t) (five sh)))
    | _ => none⟩]

/-- The A32 rows of a word or byte load or store. -/
def memA (b l : Nat) (mk : Enc → Reg → MemForm → Instr) : List Row :=
  memA1 .offset b l mk ++ memA1 .pre b l mk ++ memA1 .post b l mk

/-- The A32 rows of a word or byte `T` instruction: P = 0, W = 1. -/
def memAT (b l : Nat) (mk : Enc → Reg → MemFormT → Instr) : List Row := [
  ⟨pMemImm 0 b 1 l, fun
    | [c, u, n, d, i] => some (mk (.a32 (condOf c)) (regOf d) (.aImm (bitOf u) (regOf n) (BitVec.ofNat 12 i)))
    | _ => none⟩,
  ⟨pMemReg 0 b 1 l, fun
    | [c, u, n, d, sh, t, m] => some (mk (.a32 (condOf c)) (regOf d)
        (.aReg (bitOf u) (regOf n) (regOf m) (shiftOf t) (five sh)))
    | _ => none⟩]

/-- One addressing form of an A32 halfword or signed load or store (R476). -/
def memX1 (idx : Idx) (l sh : Nat) (mk : Enc → Reg → MemForm → Instr) : List Row := [
  ⟨pMemImm8 idx.p idx.w l sh, fun
    | [c, u, n, d, h, i] => some (mk (.a32 (condOf c)) (regOf d)
        (.aImm8 idx (bitOf u) (regOf n) (BitVec.ofNat 8 (h * 16 + i))))
    | _ => none⟩,
  ⟨pMemReg0 idx.p idx.w l sh, fun
    | [c, u, n, d, m] => some (mk (.a32 (condOf c)) (regOf d) (.aReg0 idx (bitOf u) (regOf n) (regOf m)))
    | _ => none⟩]

/-- The A32 rows of a halfword or signed load or store. -/
def memX (l sh : Nat) (mk : Enc → Reg → MemForm → Instr) : List Row :=
  memX1 .offset l sh mk ++ memX1 .pre l sh mk ++ memX1 .post l sh mk

/-- The A32 rows of a halfword or signed `T` instruction. -/
def memXT (l sh : Nat) (mk : Enc → Reg → MemFormT → Instr) : List Row := [
  ⟨pMemImm8 0 1 l sh, fun
    | [c, u, n, d, h, i] => some (mk (.a32 (condOf c)) (regOf d)
        (.aImm8 (bitOf u) (regOf n) (BitVec.ofNat 8 (h * 16 + i))))
    | _ => none⟩,
  ⟨pMemReg0 0 1 l sh, fun
    | [c, u, n, d, m] => some (mk (.a32 (condOf c)) (regOf d) (.aReg0 (bitOf u) (regOf n) (regOf m)))
    | _ => none⟩]

/-- The T32 rows of a load or store, literal form apart; `d` is the Rd segment. -/
def memT (s sz l : Nat) (d : Seg) (mk : Enc → Reg → MemForm → Instr) : List Row := [
  ⟨tMem12 s sz l d, fun
    | [n, d, i] => some (mk .thumb (regOf d) (.tImm12 (regOf n) (BitVec.ofNat 12 i)))
    | _ => none⟩,
  ⟨tMem8N s sz l d, fun
    | [n, d, i] => some (mk .thumb (regOf d) (.tImm8 .offset false (regOf n) (BitVec.ofNat 8 i)))
    | _ => none⟩,
  ⟨tMem8 s sz l d 1 1, fun
    | [n, d, u, i] => some (mk .thumb (regOf d) (.tImm8 .pre (bitOf u) (regOf n) (BitVec.ofNat 8 i)))
    | _ => none⟩,
  ⟨tMem8 s sz l d 0 1, fun
    | [n, d, u, i] => some (mk .thumb (regOf d) (.tImm8 .post (bitOf u) (regOf n) (BitVec.ofNat 8 i)))
    | _ => none⟩,
  ⟨tMemReg s sz l d, fun
    | [n, d, i, m] => some (mk .thumb (regOf d) (.tReg (regOf n) (regOf m) (BitVec.ofNat 2 i)))
    | _ => none⟩]

/-- The T32 literal row of a load. -/
def memLit (s sz : Nat) (d : Seg) (mk : Enc → Reg → MemForm → Instr) : Row :=
  ⟨tMemLit s sz d, fun
    | [u, d, i] => some (mk .thumb (regOf d) (.tLit (bitOf u) (BitVec.ofNat 12 i)))
    | _ => none⟩

/-- The T32 row of a `T` instruction. -/
def memTT (s sz l : Nat) (mk : Enc → Reg → MemFormT → Instr) : Row :=
  ⟨tMemT s sz l, fun
    | [n, d, i] => some (mk .thumb (regOf d) (.tImm8 (regOf n) (BitVec.ofNat 8 i)))
    | _ => none⟩

/-! ### The rows -/

/-- A32 data processing (R117). -/
def rowsDpA : List Row :=
  dpA 0 (fun c => .and (.a32 c)) ++
  dpA 1 (fun c => .eor (.a32 c)) ++
  dpA 2 (fun c => .sub (.a32 c)) ++
  dpA 3 (fun c => .rsb (.a32 c)) ++
  dpA 4 (fun c => .add (.a32 c)) ++
  dpA 5 (fun c => .adc (.a32 c)) ++
  dpA 6 (fun c => .sbc (.a32 c)) ++
  dpA 12 (fun c => .orr (.a32 c)) ++
  dpA 14 (fun c => .bic (.a32 c)) ++
  dpA 7 .rsc ++
  testA 8 .tst ++
  testA 9 .teq ++
  testA 10 .cmp ++
  testA 11 .cmn ++
  movA 13 .mov ++
  movA 15 .mvn

/-- A32 MOV and MVN with a constant shift, RRX, and the 16-bit immediates. The words of MOV with RRX are RRX (log 14). -/
def rowsMovA : List Row :=
  [⟨pMovReg 13 (.f 5) (.fx 2 3), fun
    | [c, s, d, sh, t, m] => some (.mov (.a32 (condOf c)) (bitOf s) (regOf d) (.reg (regOf m) (shiftOf t) (five sh)))
    | _ => none⟩] ++
  [⟨pMovReg 13 (.fx 5 0) (.k 2 3), fun
    | [c, s, d, sh, m] => some (.mov (.a32 (condOf c)) (bitOf s) (regOf d) (.reg (regOf m) .ror (five sh)))
    | _ => none⟩] ++
  [⟨pMovReg 13 (.k 5 0) (.k 2 3), fun
    | [c, s, d, m] => some (.rrx (.a32 (condOf c)) (bitOf s) (regOf d) (regOf m))
    | _ => none⟩] ++
  [⟨pMovReg 15 (.f 5) (.f 2), fun
    | [c, s, d, sh, t, m] => some (.mvn (.a32 (condOf c)) (bitOf s) (regOf d) (.reg (regOf m) (shiftOf t) (five sh)))
    | _ => none⟩] ++
  [⟨pImm16 0, fun
    | [c, h, d, i] => some (.movw (.a32 (condOf c)) (regOf d) (BitVec.ofNat 16 (h * 4096 + i)))
    | _ => none⟩] ++
  [⟨pImm16 4, fun
    | [c, h, d, i] => some (.movt (.a32 (condOf c)) (regOf d) (BitVec.ofNat 16 (h * 4096 + i)))
    | _ => none⟩]

/-- A32 parallel instructions (R230). -/
def rowsParA : List Row :=
  [parA 1 0 .sadd16, parA 2 0 .qadd16, parA 3 0 .shadd16, parA 5 0 .uadd16,
   parA 6 0 .uqadd16, parA 7 0 .uhadd16, parA 1 3 .ssub16, parA 2 3 .qsub16,
   parA 3 3 .shsub16, parA 5 3 .usub16, parA 6 3 .uqsub16, parA 7 3 .uhsub16,
   parA 1 4 .sadd8, parA 2 4 .qadd8, parA 3 4 .shadd8, parA 5 4 .uadd8,
   parA 6 4 .uqadd8, parA 7 4 .uhadd8, parA 1 7 .ssub8, parA 2 7 .qsub8,
   parA 3 7 .shsub8, parA 5 7 .usub8, parA 6 7 .uqsub8, parA 7 7 .uhsub8,
   parA 1 1 .sasx, parA 2 1 .qasx, parA 3 1 .shasx, parA 5 1 .uasx,
   parA 6 1 .uqasx, parA 7 1 .uhasx, parA 1 2 .ssax, parA 2 2 .qsax,
   parA 3 2 .shsax, parA 5 2 .usax, parA 6 2 .uqsax, parA 7 2 .uhsax]

/-- T32 parallel instructions (R230). -/
def rowsParT : List Row :=
  [parT 0 1 .sadd16, parT 1 1 .qadd16, parT 2 1 .shadd16, parT 4 1 .uadd16,
   parT 5 1 .uqadd16, parT 6 1 .uhadd16, parT 0 5 .ssub16, parT 1 5 .qsub16,
   parT 2 5 .shsub16, parT 4 5 .usub16, parT 5 5 .uqsub16, parT 6 5 .uhsub16,
   parT 0 0 .sadd8, parT 1 0 .qadd8, parT 2 0 .shadd8, parT 4 0 .uadd8,
   parT 5 0 .uqadd8, parT 6 0 .uhadd8, parT 0 4 .ssub8, parT 1 4 .qsub8,
   parT 2 4 .shsub8, parT 4 4 .usub8, parT 5 4 .uqsub8, parT 6 4 .uhsub8,
   parT 0 2 .sasx, parT 1 2 .qasx, parT 2 2 .shasx, parT 4 2 .uasx,
   parT 5 2 .uqasx, parT 6 2 .uhasx, parT 0 6 .ssax, parT 1 6 .qsax,
   parT 2 6 .shsax, parT 4 6 .usax, parT 5 6 .uqsax, parT 6 6 .uhsax]

/-- A32 saturating, sum of absolute differences, select and reverse rows. -/
def rowsMediaA : List Row :=
  [rowC3 (pSatAdd 0) (fun e n d m => .qadd e d m n),
   rowC3 (pSatAdd 1) (fun e n d m => .qsub e d m n),
   rowC3 (pSatAdd 2) (fun e n d m => .qdadd e d m n),
   rowC3 (pSatAdd 3) (fun e n d m => .qdsub e d m n)] ++
  [rowC3 (pMedia4 120 (.k 4 15) 1) (fun e d s m => .usad8 e d m s),
   rowC4 (pMedia4 120 (.fx 4 15) 1) (fun e d n s m => .usada8 e d m s n),
   rowC3 (pMedia4 113 (.k 4 15) 1) (fun e d m n => .sdiv e d n m),
   rowC3 (pMedia4 115 (.k 4 15) 1) (fun e d m n => .udiv e d n m)] ++
  [⟨pSat 53, fun
    | [c, q, d, sh, h, m] => some (.ssat (.a32 (condOf c)) (regOf d) (five q) (bitOf h) (five sh) (regOf m))
    | _ => none⟩] ++
  [⟨pSat 55, fun
    | [c, q, d, sh, h, m] => some (.usat (.a32 (condOf c)) (regOf d) (five q) (bitOf h) (five sh) (regOf m))
    | _ => none⟩] ++
  [rowC3 (pSat16 106) (fun e q d m => .ssat16 e d q m), rowC3 (pSat16 110) (fun e q d m => .usat16 e d q m)] ++
  [rowC3 (pMedia 104 5) (fun e n d m => .sel e d n m)] ++
  [rowC2 (pOne 22 1) .clz, rowC2 (pOne 107 3) .rev, rowC2 (pOne 107 11) .rev16, rowC2 (pOne 111 3) .rbit,
   rowC2 (pOne 111 11) .revsh]

/-- A32 multiplies (R117). -/
def rowsMulA : List Row :=
  [⟨pMul 0 (.f 1) (.k 4 0), fun
    | [c, s, d, r, m] => some (.mul (.a32 (condOf c)) (bitOf s) (regOf d) (regOf m) (regOf r))
    | _ => none⟩] ++
  [⟨pMul 1 (.f 1) (.f 4), fun
    | [c, s, h, l, r, m] => some (.mla (.a32 (condOf c)) (bitOf s) (regOf h) (regOf m) (regOf r) (regOf l))
    | _ => none⟩] ++
  [rowC4 (pMul 3 (.k 1 0) (.f 4)) (fun e d n s m => .mls e d m s n),
   rowC4 (pMul 2 (.k 1 0) (.f 4)) (fun e h l s m => .umaal e l h m s)] ++
  [⟨pMul 4 (.f 1) (.f 4), fun
    | [c, s, h, l, r, m] => some (.umull (.a32 (condOf c)) (bitOf s) (regOf l) (regOf h) (regOf m) (regOf r))
    | _ => none⟩] ++
  [⟨pMul 5 (.f 1) (.f 4), fun
    | [c, s, h, l, r, m] => some (.umlal (.a32 (condOf c)) (bitOf s) (regOf l) (regOf h) (regOf m) (regOf r))
    | _ => none⟩] ++
  [⟨pMul 6 (.f 1) (.f 4), fun
    | [c, s, h, l, r, m] => some (.smull (.a32 (condOf c)) (bitOf s) (regOf l) (regOf h) (regOf m) (regOf r))
    | _ => none⟩] ++
  [⟨pMul 7 (.f 1) (.f 4), fun
    | [c, s, h, l, r, m] => some (.smlal (.a32 (condOf c)) (bitOf s) (regOf l) (regOf h) (regOf m) (regOf r))
    | _ => none⟩] ++
  [⟨pHalfXY 16 (.f 4), fun
    | [c, d, n, s, y, x, m] => some (.smlaxy (.a32 (condOf c)) (bitOf x) (bitOf y) (regOf d) (regOf m) (regOf s) (regOf n))
    | _ => none⟩] ++
  [⟨pHalfY (.f 4) 0, fun
    | [c, d, n, s, y, m] => some (.smlawy (.a32 (condOf c)) (bitOf y) (regOf d) (regOf m) (regOf s) (regOf n))
    | _ => none⟩] ++
  [⟨pHalfY (.k 4 0) 1, fun
    | [c, d, s, y, m] => some (.smulwy (.a32 (condOf c)) (bitOf y) (regOf d) (regOf m) (regOf s))
    | _ => none⟩] ++
  [⟨pHalfXY 20 (.f 4), fun
    | [c, h, l, s, y, x, m] => some (.smlalxy (.a32 (condOf c)) (bitOf x) (bitOf y) (regOf l) (regOf h) (regOf m) (regOf s))
    | _ => none⟩] ++
  [⟨pHalfXY 22 (.k 4 0), fun
    | [c, d, s, y, x, m] => some (.smulxy (.a32 (condOf c)) (bitOf x) (bitOf y) (regOf d) (regOf m) (regOf s))
    | _ => none⟩] ++
  [⟨pDual 112 (.k 4 15) 0, fun
    | [c, d, s, x, m] => some (.smuad (.a32 (condOf c)) (bitOf x) (regOf d) (regOf m) (regOf s))
    | _ => none⟩] ++
  [⟨pDual 112 (.k 4 15) 1, fun
    | [c, d, s, x, m] => some (.smusd (.a32 (condOf c)) (bitOf x) (regOf d) (regOf m) (regOf s))
    | _ => none⟩] ++
  [⟨pDual 117 (.k 4 15) 0, fun
    | [c, d, s, x, m] => some (.smmul (.a32 (condOf c)) (bitOf x) (regOf d) (regOf m) (regOf s))
    | _ => none⟩] ++
  [⟨pDual 112 (.fx 4 15) 0, fun
    | [c, d, n, s, x, m] => some (.smlad (.a32 (condOf c)) (bitOf x) (regOf d) (regOf m) (regOf s) (regOf n))
    | _ => none⟩] ++
  [⟨pDual 112 (.fx 4 15) 1, fun
    | [c, d, n, s, x, m] => some (.smlsd (.a32 (condOf c)) (bitOf x) (regOf d) (regOf m) (regOf s) (regOf n))
    | _ => none⟩] ++
  [⟨pDual 117 (.fx 4 15) 0, fun
    | [c, d, n, s, x, m] => some (.smmla (.a32 (condOf c)) (bitOf x) (regOf d) (regOf m) (regOf s) (regOf n))
    | _ => none⟩] ++
  [⟨pDual 117 (.f 4) 3, fun
    | [c, d, n, s, x, m] => some (.smmls (.a32 (condOf c)) (bitOf x) (regOf d) (regOf m) (regOf s) (regOf n))
    | _ => none⟩] ++
  [⟨pDual 116 (.f 4) 0, fun
    | [c, h, l, s, x, m] => some (.smlald (.a32 (condOf c)) (bitOf x) (regOf l) (regOf h) (regOf m) (regOf s))
    | _ => none⟩] ++
  [⟨pDual 116 (.f 4) 1, fun
    | [c, h, l, s, x, m] => some (.smlsld (.a32 (condOf c)) (bitOf x) (regOf l) (regOf h) (regOf m) (regOf s))
    | _ => none⟩]

/-- The XScale rows (R313 to R315, R345, R346). -/
def rowsXsA : List Row :=
  [⟨pMia 0, fun
    | [c, s, m] => some (.mia (condOf c) (regOf m) (regOf s))
    | _ => none⟩] ++
  [⟨pMia 8, fun
    | [c, s, m] => some (.miaph (condOf c) (regOf m) (regOf s))
    | _ => none⟩] ++
  [⟨pMiaXY, fun
    | [c, x, y, s, m] => some (.miaxy (condOf c) (bitOf x) (bitOf y) (regOf m) (regOf s))
    | _ => none⟩] ++
  [⟨pAcc 0, fun
    | [c, h, l] => some (.mar (condOf c) (regOf l) (regOf h))
    | _ => none⟩] ++
  [⟨pAcc 1, fun
    | [c, h, l] => some (.mra (condOf c) (regOf l) (regOf h))
    | _ => none⟩]

/-- A32 bit field, pack and extend rows (R381 to R398). -/
def rowsBitA : List Row :=
  [⟨pBf 62 1 (.k 4 15), fun
    | [c, w, d, l] => some (.bfc (.a32 (condOf c)) (regOf d) (five l) (five w))
    | _ => none⟩] ++
  [⟨pBf 62 1 (.fx 4 15), fun
    | [c, w, d, l, n] => some (.bfi (.a32 (condOf c)) (regOf d) (regOf n) (five l) (five w))
    | _ => none⟩] ++
  [⟨pBf 61 5 (.f 4), fun
    | [c, w, d, l, n] => some (.sbfx (.a32 (condOf c)) (regOf d) (regOf n) (five l) (five w))
    | _ => none⟩] ++
  [⟨pBf 63 5 (.f 4), fun
    | [c, w, d, l, n] => some (.ubfx (.a32 (condOf c)) (regOf d) (regOf n) (five l) (five w))
    | _ => none⟩] ++
  [⟨pPkh 0, fun
    | [c, n, d, sh, m] => some (.pkhbt (.a32 (condOf c)) (regOf d) (regOf n) (regOf m) (five sh))
    | _ => none⟩] ++
  [⟨pPkh 1, fun
    | [c, n, d, sh, m] => some (.pkhtb (.a32 (condOf c)) (regOf d) (regOf n) (regOf m) (five sh))
    | _ => none⟩] ++
  [⟨pExt 104 (.k 4 15), fun
    | [c, d, r, m] => some (.sxtb16 (.a32 (condOf c)) (regOf d) (regOf m) (BitVec.ofNat 2 r))
    | _ => none⟩] ++
  [⟨pExt 106 (.k 4 15), fun
    | [c, d, r, m] => some (.sxtb (.a32 (condOf c)) (regOf d) (regOf m) (BitVec.ofNat 2 r))
    | _ => none⟩] ++
  [⟨pExt 107 (.k 4 15), fun
    | [c, d, r, m] => some (.sxth (.a32 (condOf c)) (regOf d) (regOf m) (BitVec.ofNat 2 r))
    | _ => none⟩] ++
  [⟨pExt 108 (.k 4 15), fun
    | [c, d, r, m] => some (.uxtb16 (.a32 (condOf c)) (regOf d) (regOf m) (BitVec.ofNat 2 r))
    | _ => none⟩] ++
  [⟨pExt 110 (.k 4 15), fun
    | [c, d, r, m] => some (.uxtb (.a32 (condOf c)) (regOf d) (regOf m) (BitVec.ofNat 2 r))
    | _ => none⟩] ++
  [⟨pExt 111 (.k 4 15), fun
    | [c, d, r, m] => some (.uxth (.a32 (condOf c)) (regOf d) (regOf m) (BitVec.ofNat 2 r))
    | _ => none⟩] ++
  [⟨pExt 104 (.fx 4 15), fun
    | [c, n, d, r, m] => some (.sxtab16 (.a32 (condOf c)) (regOf d) (regOf n) (regOf m) (BitVec.ofNat 2 r))
    | _ => none⟩] ++
  [⟨pExt 106 (.fx 4 15), fun
    | [c, n, d, r, m] => some (.sxtab (.a32 (condOf c)) (regOf d) (regOf n) (regOf m) (BitVec.ofNat 2 r))
    | _ => none⟩] ++
  [⟨pExt 107 (.fx 4 15), fun
    | [c, n, d, r, m] => some (.sxtah (.a32 (condOf c)) (regOf d) (regOf n) (regOf m) (BitVec.ofNat 2 r))
    | _ => none⟩] ++
  [⟨pExt 108 (.fx 4 15), fun
    | [c, n, d, r, m] => some (.uxtab16 (.a32 (condOf c)) (regOf d) (regOf n) (regOf m) (BitVec.ofNat 2 r))
    | _ => none⟩] ++
  [⟨pExt 110 (.fx 4 15), fun
    | [c, n, d, r, m] => some (.uxtab (.a32 (condOf c)) (regOf d) (regOf n) (regOf m) (BitVec.ofNat 2 r))
    | _ => none⟩] ++
  [⟨pExt 111 (.fx 4 15), fun
    | [c, n, d, r, m] => some (.uxtah (.a32 (condOf c)) (regOf d) (regOf n) (regOf m) (BitVec.ofNat 2 r))
    | _ => none⟩]

/-- A32 branches, status register access and processor state change (R422 to R427, R451 to R457). -/
def rowsSysA : List Row :=
  [⟨pBranch 0, fun
    | [c, i] => some (.b (.a32 (condOf c) (BitVec.ofNat 24 i)))
    | _ => none⟩] ++
  [⟨pBranch 1, fun
    | [c, i] => some (.bl (.a32 (condOf c) (BitVec.ofNat 24 i)))
    | _ => none⟩] ++
  [⟨pBlx, fun
    | [h, i] => some (.blxLabel (.a32 (bitOf h) (BitVec.ofNat 24 i)))
    | _ => none⟩] ++
  [⟨pBx 1, fun
    | [c, m] => some (.bx (.a32 (condOf c)) (regOf m))
    | _ => none⟩] ++
  [⟨pBx 2, fun
    | [c, m] => some (.bxj (.a32 (condOf c)) (regOf m))
    | _ => none⟩] ++
  [⟨pBx 3, fun
    | [c, m] => some (.blxReg (.a32 (condOf c)) (regOf m))
    | _ => none⟩] ++
  [⟨pMrs, fun
    | [c, r, d] => some (.mrs (.a32 (condOf c)) (bitOf r) (regOf d))
    | _ => none⟩] ++
  [⟨pMsrReg, fun
    | [c, r, k, m] => some (.msrReg (.a32 (condOf c)) (bitOf r) (regOf k) (regOf m))
    | _ => none⟩] ++
  [⟨pMsrImm, fun
    | [c, r, k, o, i] => some (.msrImm (condOf c) (bitOf r) (regOf k) (regOf o) (BitVec.ofNat 8 i))
    | _ => none⟩] ++
  [⟨pCpsI 2, fun
    | [m, a, i, f, mode] => if (bitOf m || mode == 0) && (bitOf a || bitOf i || bitOf f) then
        some (.cpsie false (bitOf m) (bitOf a) (bitOf i) (bitOf f) (five mode)) else none
    | _ => none⟩] ++
  [⟨pCpsI 3, fun
    | [m, a, i, f, mode] => if (bitOf m || mode == 0) && (bitOf a || bitOf i || bitOf f) then
        some (.cpsid false (bitOf m) (bitOf a) (bitOf i) (bitOf f) (five mode)) else none
    | _ => none⟩] ++
  [⟨pCps, fun
    | [mode] => some (.cps false (five mode))
    | _ => none⟩] ++
  [⟨pSetend, fun
    | [e] => some (.setend false (bitOf e))
    | _ => none⟩]

/-- A32 loads and stores (R476). -/
def rowsMemA : List Row :=
  memA 0 1 .ldr ++
  memA 1 1 .ldrb ++
  memA 0 0 .str ++
  memA 1 0 .strb ++
  memAT 0 1 .ldrt ++
  memAT 1 1 .ldrbt ++
  memAT 0 0 .strt ++
  memAT 1 0 .strbt ++
  memX 1 1 .ldrh ++
  memX 1 2 .ldrsb ++
  memX 1 3 .ldrsh ++
  memX 0 1 .strh ++
  memXT 1 1 .ldrht ++
  memXT 1 2 .ldrsbt ++
  memXT 1 3 .ldrsht ++
  memXT 0 1 .strht

/-- Every A32 row. -/
def rowsA32 : List Row :=
  rowsDpA ++
  rowsMovA ++
  rowsParA ++
  rowsMediaA ++
  rowsMulA ++
  rowsXsA ++
  rowsBitA ++
  rowsSysA ++
  rowsMemA

/-- T32 data processing (R118). -/
def rowsDpT : List Row :=
  dpT 0 (.and .thumb) ++
  dpT 4 (.eor .thumb) ++
  dpT 8 (.add .thumb) ++
  dpT 13 (.sub .thumb) ++
  dpTn 1 (.f 4) (.bic .thumb) ++
  dpTn 10 (.f 4) (.adc .thumb) ++
  dpTn 11 (.f 4) (.sbc .thumb) ++
  dpTn 14 (.f 4) (.rsb .thumb) ++
  dpTn 2 (.fx 4 15) (.orr .thumb) ++
  dpTn 3 (.fx 4 15) .orn ++
  testT 0 .tst ++
  testT 4 .teq ++
  testT 8 .cmn ++
  testT 13 .cmp ++
  [⟨tDpImm 2 (.f 1) (.k 4 15) (.f 4), fun
    | [i, s, a, d, b] => some (.mov .thumb (bitOf s) (regOf d) (.immT (imm12Of i a b)))
    | _ => none⟩] ++
  [⟨tDpImm 3 (.f 1) (.k 4 15) (.f 4), fun
    | [i, s, a, d, b] => some (.mvn .thumb (bitOf s) (regOf d) (.immT (imm12Of i a b)))
    | _ => none⟩] ++
  [⟨tDpReg 3 (.f 1) (.k 4 15) (.f 4), fun
    | [s, a, d, b, t, m] => some (.mvn .thumb (bitOf s) (regOf d) (.reg (regOf m) (shiftOf t) (imm5Of a b)))
    | _ => none⟩] ++
  [⟨tMovReg (.f 3) (.f 2) (.fx 2 3), fun
    | [s, a, d, b, t, m] => some (.mov .thumb (bitOf s) (regOf d) (.reg (regOf m) (shiftOf t) (imm5Of a b)))
    | _ => none⟩] ++
  [⟨tMovReg (.fx 3 0) (.f 2) (.k 2 3), fun
    | [s, a, d, b, m] => some (.mov .thumb (bitOf s) (regOf d) (.reg (regOf m) .ror (imm5Of a b)))
    | _ => none⟩] ++
  [⟨tMovReg (.k 3 0) (.fx 2 0) (.k 2 3), fun
    | [s, d, b, m] => some (.mov .thumb (bitOf s) (regOf d) (.reg (regOf m) .ror (imm5Of 0 b)))
    | _ => none⟩] ++
  [⟨tMovReg (.k 3 0) (.k 2 0) (.k 2 3), fun
    | [s, d, m] => some (.rrx .thumb (bitOf s) (regOf d) (regOf m))
    | _ => none⟩]

/-- T32 shifts by register, plain immediates and the exception return. -/
def rowsImmT : List Row :=
  [⟨tShift 0, fun
    | [s, m, d, r] => some (.lsl (bitOf s) (regOf d) (regOf m) (regOf r))
    | _ => none⟩] ++
  [⟨tShift 1, fun
    | [s, m, d, r] => some (.lsr (bitOf s) (regOf d) (regOf m) (regOf r))
    | _ => none⟩] ++
  [⟨tShift 2, fun
    | [s, m, d, r] => some (.asr (bitOf s) (regOf d) (regOf m) (regOf r))
    | _ => none⟩] ++
  [⟨tShift 3, fun
    | [s, m, d, r] => some (.ror (bitOf s) (regOf d) (regOf m) (regOf r))
    | _ => none⟩] ++
  [⟨tPlain 0 (.fx 4 15), fun
    | [i, n, a, d, b] => some (.addw (regOf d) (regOf n) (imm12Of i a b))
    | _ => none⟩] ++
  [⟨tPlain 10 (.fx 4 15), fun
    | [i, n, a, d, b] => some (.subw (regOf d) (regOf n) (imm12Of i a b))
    | _ => none⟩] ++
  [⟨tPlain 0 (.k 4 15), fun
    | [i, a, d, b] => some (.adr true (regOf d) (imm12Of i a b))
    | _ => none⟩] ++
  [⟨tPlain 10 (.k 4 15), fun
    | [i, a, d, b] => some (.adr false (regOf d) (imm12Of i a b))
    | _ => none⟩] ++
  [⟨tPlain 4 (.f 4), fun
    | [i, h, a, d, b] => some (.movw .thumb (regOf d) (BitVec.ofNat 16 (h * 4096 + i * 2048 + a * 256 + b)))
    | _ => none⟩] ++
  [⟨tPlain 12 (.f 4), fun
    | [i, h, a, d, b] => some (.movt .thumb (regOf d) (BitVec.ofNat 16 (h * 4096 + i * 2048 + a * 256 + b)))
    | _ => none⟩] ++
  [⟨tSubs, fun
    | [i] => some (.subsPcLr (BitVec.ofNat 8 i))
    | _ => none⟩]

/-- T32 saturating, pack, extend, reverse, select and bit field rows. -/
def rowsMediaT : List Row :=
  [rowT3 (tReg 8 8) (fun e n d m => .qadd e d m n),
   rowT3 (tReg 8 9) (fun e n d m => .qdadd e d m n),
   rowT3 (tReg 8 10) (fun e n d m => .qsub e d m n),
   rowT3 (tReg 8 11) (fun e n d m => .qdsub e d m n)] ++
  [rowTwice (tReg 11 8) .clz, rowTwice (tReg 9 8) .rev, rowTwice (tReg 9 9) .rev16, rowTwice (tReg 9 10) .rbit,
   rowTwice (tReg 9 11) .revsh, rowT3 (tReg 10 8) (fun e n d m => .sel e d n m)] ++
  [⟨tSat 4 (.k 1 0) (.f 3) (.f 2), fun
    | [m, a, d, b, q] => some (.ssat .thumb (regOf d) (five q) false (imm5Of a b) (regOf m))
    | _ => none⟩] ++
  [⟨tSat 4 (.k 1 1) (.fx 3 0) (.f 2), fun
    | [m, a, d, b, q] => some (.ssat .thumb (regOf d) (five q) true (imm5Of a b) (regOf m))
    | _ => none⟩] ++
  [⟨tSat 4 (.k 1 1) (.k 3 0) (.fx 2 0), fun
    | [m, d, b, q] => some (.ssat .thumb (regOf d) (five q) true (imm5Of 0 b) (regOf m))
    | _ => none⟩] ++
  [⟨tSat 6 (.k 1 0) (.f 3) (.f 2), fun
    | [m, a, d, b, q] => some (.usat .thumb (regOf d) (five q) false (imm5Of a b) (regOf m))
    | _ => none⟩] ++
  [⟨tSat 6 (.k 1 1) (.fx 3 0) (.f 2), fun
    | [m, a, d, b, q] => some (.usat .thumb (regOf d) (five q) true (imm5Of a b) (regOf m))
    | _ => none⟩] ++
  [⟨tSat 6 (.k 1 1) (.k 3 0) (.fx 2 0), fun
    | [m, d, b, q] => some (.usat .thumb (regOf d) (five q) true (imm5Of 0 b) (regOf m))
    | _ => none⟩] ++
  [rowT3 (tSat16 4) (fun e m d q => .ssat16 e d q m), rowT3 (tSat16 6) (fun e m d q => .usat16 e d q m)] ++
  [⟨tBf 22 (.k 4 15), fun
    | [a, d, b, w] => some (.bfc .thumb (regOf d) (imm5Of a b) (five w))
    | _ => none⟩] ++
  [⟨tBf 22 (.fx 4 15), fun
    | [n, a, d, b, w] => some (.bfi .thumb (regOf d) (regOf n) (imm5Of a b) (five w))
    | _ => none⟩] ++
  [⟨tBf 20 (.f 4), fun
    | [n, a, d, b, w] => some (.sbfx .thumb (regOf d) (regOf n) (imm5Of a b) (five w))
    | _ => none⟩] ++
  [⟨tBf 28 (.f 4), fun
    | [n, a, d, b, w] => some (.ubfx .thumb (regOf d) (regOf n) (imm5Of a b) (five w))
    | _ => none⟩] ++
  [⟨tPkh 0, fun
    | [n, a, d, b, m] => some (.pkhbt .thumb (regOf d) (regOf n) (regOf m) (imm5Of a b))
    | _ => none⟩] ++
  [⟨tPkh 1, fun
    | [n, a, d, b, m] => some (.pkhtb .thumb (regOf d) (regOf n) (regOf m) (imm5Of a b))
    | _ => none⟩] ++
  [⟨tExt 2 (.k 4 15), fun
    | [d, r, m] => some (.sxtb16 .thumb (regOf d) (regOf m) (BitVec.ofNat 2 r))
    | _ => none⟩] ++
  [⟨tExt 4 (.k 4 15), fun
    | [d, r, m] => some (.sxtb .thumb (regOf d) (regOf m) (BitVec.ofNat 2 r))
    | _ => none⟩] ++
  [⟨tExt 0 (.k 4 15), fun
    | [d, r, m] => some (.sxth .thumb (regOf d) (regOf m) (BitVec.ofNat 2 r))
    | _ => none⟩] ++
  [⟨tExt 3 (.k 4 15), fun
    | [d, r, m] => some (.uxtb16 .thumb (regOf d) (regOf m) (BitVec.ofNat 2 r))
    | _ => none⟩] ++
  [⟨tExt 5 (.k 4 15), fun
    | [d, r, m] => some (.uxtb .thumb (regOf d) (regOf m) (BitVec.ofNat 2 r))
    | _ => none⟩] ++
  [⟨tExt 1 (.k 4 15), fun
    | [d, r, m] => some (.uxth .thumb (regOf d) (regOf m) (BitVec.ofNat 2 r))
    | _ => none⟩] ++
  [⟨tExt 2 (.fx 4 15), fun
    | [n, d, r, m] => some (.sxtab16 .thumb (regOf d) (regOf n) (regOf m) (BitVec.ofNat 2 r))
    | _ => none⟩] ++
  [⟨tExt 4 (.fx 4 15), fun
    | [n, d, r, m] => some (.sxtab .thumb (regOf d) (regOf n) (regOf m) (BitVec.ofNat 2 r))
    | _ => none⟩] ++
  [⟨tExt 0 (.fx 4 15), fun
    | [n, d, r, m] => some (.sxtah .thumb (regOf d) (regOf n) (regOf m) (BitVec.ofNat 2 r))
    | _ => none⟩] ++
  [⟨tExt 3 (.fx 4 15), fun
    | [n, d, r, m] => some (.uxtab16 .thumb (regOf d) (regOf n) (regOf m) (BitVec.ofNat 2 r))
    | _ => none⟩] ++
  [⟨tExt 5 (.fx 4 15), fun
    | [n, d, r, m] => some (.uxtab .thumb (regOf d) (regOf n) (regOf m) (BitVec.ofNat 2 r))
    | _ => none⟩] ++
  [⟨tExt 1 (.fx 4 15), fun
    | [n, d, r, m] => some (.uxtah .thumb (regOf d) (regOf n) (regOf m) (BitVec.ofNat 2 r))
    | _ => none⟩]

/-- T32 multiply and divide (R118). -/
def rowsMulT : List Row :=
  [⟨tMul 0 (.k 4 15) 0, fun
    | [m, d, s] => some (.mul .thumb false (regOf d) (regOf m) (regOf s))
    | _ => none⟩] ++
  [⟨tMul 0 (.fx 4 15) 0, fun
    | [m, n, d, s] => some (.mla .thumb false (regOf d) (regOf m) (regOf s) (regOf n))
    | _ => none⟩] ++
  [rowT4 (tMul 0 (.f 4) 1) (fun e m n d s => .mls e d m s n), rowT3 (tMul 7 (.k 4 15) 0) (fun e m d s => .usad8 e d m s),
   rowT4 (tMul 7 (.fx 4 15) 0) (fun e m n d s => .usada8 e d m s n)] ++
  [⟨tMulXY (.k 4 15), fun
    | [m, d, x, y, s] => some (.smulxy .thumb (bitOf x) (bitOf y) (regOf d) (regOf m) (regOf s))
    | _ => none⟩] ++
  [⟨tMulXY (.fx 4 15), fun
    | [m, n, d, x, y, s] => some (.smlaxy .thumb (bitOf x) (bitOf y) (regOf d) (regOf m) (regOf s) (regOf n))
    | _ => none⟩] ++
  [⟨tMulX 2 (.k 4 15), fun
    | [m, d, x, s] => some (.smuad .thumb (bitOf x) (regOf d) (regOf m) (regOf s))
    | _ => none⟩] ++
  [⟨tMulX 3 (.k 4 15), fun
    | [m, d, x, s] => some (.smulwy .thumb (bitOf x) (regOf d) (regOf m) (regOf s))
    | _ => none⟩] ++
  [⟨tMulX 4 (.k 4 15), fun
    | [m, d, x, s] => some (.smusd .thumb (bitOf x) (regOf d) (regOf m) (regOf s))
    | _ => none⟩] ++
  [⟨tMulX 5 (.k 4 15), fun
    | [m, d, x, s] => some (.smmul .thumb (bitOf x) (regOf d) (regOf m) (regOf s))
    | _ => none⟩] ++
  [⟨tMulX 2 (.fx 4 15), fun
    | [m, n, d, x, s] => some (.smlad .thumb (bitOf x) (regOf d) (regOf m) (regOf s) (regOf n))
    | _ => none⟩] ++
  [⟨tMulX 3 (.fx 4 15), fun
    | [m, n, d, x, s] => some (.smlawy .thumb (bitOf x) (regOf d) (regOf m) (regOf s) (regOf n))
    | _ => none⟩] ++
  [⟨tMulX 4 (.fx 4 15), fun
    | [m, n, d, x, s] => some (.smlsd .thumb (bitOf x) (regOf d) (regOf m) (regOf s) (regOf n))
    | _ => none⟩] ++
  [⟨tMulX 5 (.fx 4 15), fun
    | [m, n, d, x, s] => some (.smmla .thumb (bitOf x) (regOf d) (regOf m) (regOf s) (regOf n))
    | _ => none⟩] ++
  [⟨tMulX 6 (.f 4), fun
    | [m, n, d, x, s] => some (.smmls .thumb (bitOf x) (regOf d) (regOf m) (regOf s) (regOf n))
    | _ => none⟩] ++
  [⟨tLong 0 0, fun
    | [m, l, h, s] => some (.smull .thumb false (regOf l) (regOf h) (regOf m) (regOf s))
    | _ => none⟩] ++
  [⟨tLong 2 0, fun
    | [m, l, h, s] => some (.umull .thumb false (regOf l) (regOf h) (regOf m) (regOf s))
    | _ => none⟩] ++
  [⟨tLong 4 0, fun
    | [m, l, h, s] => some (.smlal .thumb false (regOf l) (regOf h) (regOf m) (regOf s))
    | _ => none⟩] ++
  [⟨tLong 6 0, fun
    | [m, l, h, s] => some (.umlal .thumb false (regOf l) (regOf h) (regOf m) (regOf s))
    | _ => none⟩] ++
  [rowT4 (tLong 6 6) (fun e m l h s => .umaal e l h m s), rowT3 (tDiv 1) (fun e n d m => .sdiv e d n m),
   rowT3 (tDiv 3) (fun e n d m => .udiv e d n m)] ++
  [⟨tLongXY, fun
    | [m, l, h, x, y, s] => some (.smlalxy .thumb (bitOf x) (bitOf y) (regOf l) (regOf h) (regOf m) (regOf s))
    | _ => none⟩] ++
  [⟨tLongX 4 6, fun
    | [m, l, h, x, s] => some (.smlald .thumb (bitOf x) (regOf l) (regOf h) (regOf m) (regOf s))
    | _ => none⟩] ++
  [⟨tLongX 5 6, fun
    | [m, l, h, x, s] => some (.smlsld .thumb (bitOf x) (regOf l) (regOf h) (regOf m) (regOf s))
    | _ => none⟩]

/-- T32 branches, status register access and processor state change. -/
def rowsSysT : List Row :=
  [⟨tB3 (.k 1 0) (.f 3), fun
    | [s, c, i, j, k, l] => some (.b (.t3 (condOf (c)) (bitOf s) (bitOf j) (bitOf k) (BitVec.ofNat 6 i) (BitVec.ofNat 11 l)))
    | _ => none⟩] ++
  [⟨tB3 (.k 2 2) (.f 2), fun
    | [s, c, i, j, k, l] => some (.b (.t3 (condOf (8 + c)) (bitOf s) (bitOf j) (bitOf k) (BitVec.ofNat 6 i) (BitVec.ofNat 11 l)))
    | _ => none⟩] ++
  [⟨tB3 (.k 3 6) (.f 1), fun
    | [s, c, i, j, k, l] => some (.b (.t3 (condOf (12 + c)) (bitOf s) (bitOf j) (bitOf k) (BitVec.ofNat 6 i) (BitVec.ofNat 11 l)))
    | _ => none⟩] ++
  [⟨tB4 0, fun
    | [s, i, j, k, l] => some (.b (.t4 (bitOf s) (bitOf j) (bitOf k) (BitVec.ofNat 10 i) (BitVec.ofNat 11 l)))
    | _ => none⟩] ++
  [⟨tB4 1, fun
    | [s, i, j, k, l] => some (.bl (.t32 (bitOf s) (bitOf j) (bitOf k) (BitVec.ofNat 10 i) (BitVec.ofNat 11 l)))
    | _ => none⟩] ++
  [⟨tBlx, fun
    | [s, i, j, k, l] => some (.blxLabel (.t32 (bitOf s) (bitOf j) (bitOf k) (BitVec.ofNat 10 i) (BitVec.ofNat 10 l)))
    | _ => none⟩] ++
  [⟨tBxj, fun
    | [m] => some (.bxj .thumb (regOf m))
    | _ => none⟩] ++
  [⟨tTb 0, fun
    | [n, m] => some (.tbb (regOf n) (regOf m))
    | _ => none⟩] ++
  [⟨tTb 1, fun
    | [n, m] => some (.tbh (regOf n) (regOf m))
    | _ => none⟩] ++
  [⟨tMrs, fun
    | [r, d] => some (.mrs .thumb (bitOf r) (regOf d))
    | _ => none⟩] ++
  [⟨tMsr, fun
    | [r, m, k] => some (.msrReg .thumb (bitOf r) (regOf k) (regOf m))
    | _ => none⟩] ++
  [⟨tCpsI 2, fun
    | [m, a, i, f, mode] => if (bitOf m || mode == 0) && (bitOf a || bitOf i || bitOf f) then
        some (.cpsie true (bitOf m) (bitOf a) (bitOf i) (bitOf f) (five mode)) else none
    | _ => none⟩] ++
  [⟨tCpsI 3, fun
    | [m, a, i, f, mode] => if (bitOf m || mode == 0) && (bitOf a || bitOf i || bitOf f) then
        some (.cpsid true (bitOf m) (bitOf a) (bitOf i) (bitOf f) (five mode)) else none
    | _ => none⟩] ++
  [⟨tCps, fun
    | [mode] => some (.cps true (five mode))
    | _ => none⟩]

/-- T32 loads and stores (R476). -/
def rowsMemT : List Row :=
  memT 0 2 1 (.f 4) .ldr ++
  memT 0 0 1 (.fx 4 15) .ldrb ++
  memT 1 0 1 (.fx 4 15) .ldrsb ++
  memT 0 1 1 (.fx 4 15) .ldrh ++
  memT 1 1 1 (.fx 4 15) .ldrsh ++
  memT 0 2 0 (.f 4) .str ++
  memT 0 0 0 (.f 4) .strb ++
  memT 0 1 0 (.f 4) .strh ++
  [memLit 0 2 (.f 4) .ldr, memLit 0 0 (.fx 4 15) .ldrb, memLit 1 0 (.fx 4 15) .ldrsb, memLit 0 1 (.fx 4 15) .ldrh,
   memLit 1 1 (.fx 4 15) .ldrsh] ++
  [memTT 0 2 1 .ldrt, memTT 0 0 1 .ldrbt, memTT 1 0 1 .ldrsbt, memTT 0 1 1 .ldrht, memTT 1 1 1 .ldrsht,
   memTT 0 2 0 .strt, memTT 0 0 0 .strbt, memTT 0 1 0 .strht]

/-- Every T32 row. -/
def rowsT32 : List Row :=
  rowsDpT ++
  rowsImmT ++
  rowsParT ++
  rowsMediaT ++
  rowsMulT ++
  rowsSysT ++
  rowsMemT

/-- Every T16 row (R119). -/
def rowsT16 : List Row :=
  [⟨hIt, fun
    | [c, m] => some (.it (regOf c) (regOf m))
    | _ => none⟩] ++
  [⟨hCbz 0, fun
    | [i, o, n] => some (.cbz (bitOf i) (five o) (BitVec.ofNat 3 n))
    | _ => none⟩] ++
  [⟨hCbz 1, fun
    | [i, o, n] => some (.cbnz (bitOf i) (five o) (BitVec.ofNat 3 n))
    | _ => none⟩] ++
  [⟨hBx 0, fun
    | [m] => some (.bx .thumb (regOf m))
    | _ => none⟩] ++
  [⟨hBx 1, fun
    | [m] => some (.blxReg .thumb (regOf m))
    | _ => none⟩] ++
  [⟨hSetend, fun
    | [e] => some (.setend true (bitOf e))
    | _ => none⟩]

/-! ### The decoder -/

/-- An instruction's bits: an A32 word, a T32 pair with the first halfword in bits 31 to 16 (R111), or a T16
halfword. -/
inductive Code where
  | a32 (w : BitVec 32)
  | t32 (w : BitVec 32)
  | t16 (h : BitVec 16)
deriving DecidableEq, Repr

/-- The instruction that an instruction's bits encode; `none` is "not in scope" (R114). -/
def decodeCode : Code → Option Instr
  | .a32 w => readRows rowsA32 w.toNat
  | .t32 w => readRows rowsT32 w.toNat
  | .t16 h => readRows rowsT16 h.toNat

/-- Why bytes do not decode. -/
inductive DecodeError where
  /-- Fewer bytes than the instruction has. -/
  | truncated
  /-- No row of the opcode table matches (R114). -/
  | notInScope
deriving DecidableEq, Repr

/-- A halfword from two bytes in ascending addresses; `big` is `Config.InstrBigEndian` (R84, log 22). -/
def halfOf (big : Bool) (b0 b1 : Byte) : BitVec 16 :=
  if big then b0 ++ b1 else b1 ++ b0

/-- A word from four bytes in ascending addresses (R84, log 22). -/
def wordOf (big : Bool) (b0 b1 b2 b3 : Byte) : BitVec 32 :=
  if big then b0 ++ b1 ++ b2 ++ b3 else b3 ++ b2 ++ b1 ++ b0

/-- The first halfword of a 32-bit Thumb instruction: bits 15 to 11 are 11101, 11110 or 11111 (R111). -/
def isWide (h : BitVec 16) : Bool :=
  29 ≤ h.toNat / 2048

/-- The bits of the first instruction in a list of bytes, and the bytes after it. -/
def readCode (thumb big : Bool) : List Byte → Option (Code × List Byte)
  | b0 :: b1 :: rest =>
    if thumb && !isWide (halfOf big b0 b1) then some (.t16 (halfOf big b0 b1), rest)
    else
      match rest with
      | b2 :: b3 :: rest =>
        if thumb then some (.t32 (halfOf big b0 b1 ++ halfOf big b2 b3), rest)
        else some (.a32 (wordOf big b0 b1 b2 b3), rest)
      | _ => none
  | _ => none

/-- The first instruction in a list of bytes and the bytes after it, in ARM or Thumb state. Total; a
rejection has a name. -/
def decode (thumb big : Bool) (bytes : List Byte) : Except DecodeError (Instr × List Byte) :=
  match readCode thumb big bytes with
  | none => .error .truncated
  | some (c, rest) =>
    match decodeCode c with
    | none => .error .notInScope
    | some i => .ok (i, rest)

/-- The bytes of a halfword in ascending addresses (R84). -/
def halfBytes (big : Bool) (h : BitVec 16) : List Byte :=
  if big then [h.extractLsb' 8 8, h.extractLsb' 0 8] else [h.extractLsb' 0 8, h.extractLsb' 8 8]

/-- The bytes of an instruction as memory holds them (R84, R111). -/
def Code.bytes (big : Bool) : Code → List Byte
  | .a32 w =>
    if big then [w.extractLsb' 24 8, w.extractLsb' 16 8, w.extractLsb' 8 8, w.extractLsb' 0 8]
    else [w.extractLsb' 0 8, w.extractLsb' 8 8, w.extractLsb' 16 8, w.extractLsb' 24 8]
  | .t32 w => halfBytes big (w.extractLsb' 16 16) ++ halfBytes big (w.extractLsb' 0 16)
  | .t16 h => halfBytes big h

/-- The bytes an instruction takes (R40, R111). -/
def Code.size : Code → Nat
  | .a32 _ => 4
  | .t32 _ => 4
  | .t16 _ => 2

/-- True for the Thumb encodings. -/
def Code.isThumb : Code → Bool
  | .a32 _ => false
  | .t32 _ => true
  | .t16 _ => true

/-! ### The encoder -/

/-- The instruction set of an encoding. -/
inductive Isa where
  | a32 | t32 | t16
deriving DecidableEq, Repr

/-- An instruction set, a pattern and its field values. -/
abbrev Enc1 := Isa × List Seg × List Nat

/-- The value a term that no row encodes gets. -/
def noRow : Enc1 := (.a32, [], [])

/-- The bits above `n` of a field, and the low `n` bits. -/
def hiLo (v n : Nat) : Nat × Nat := (v / 2 ^ n, v % 2 ^ n)

/-- The Rn and Rd segments, S value and which fields of a T32 data-processing row are listed. -/
inductive TKind where
  /-- AND, EOR, ADD, SUB: Rd = 1111 with S = 1 is another row. -/
  | shared
  /-- ORR, ORN: Rn = 1111 is another row. -/
  | noPcN
  /-- The others. -/
  | plain
deriving DecidableEq, Repr

/-- A data-processing instruction with Rd, Rn and `<Operand2>` (R117, R118). -/
def encDp (opA opT : Nat) (kind : TKind) (e : Enc) (s : Bool) (rd rn : Reg) (o : Op2) : Enc1 :=
  match e, o with
  | .a32 c, .immA r i => (.a32, pDpImm opA, [c.num, s.toNat, rn.toNat, rd.toNat, r.toNat, i.toNat])
  | .a32 c, .reg m t sh => (.a32, pDpReg opA, [c.num, s.toNat, rn.toNat, rd.toNat, sh.toNat, t.num, m.toNat])
  | .a32 c, .regReg m t rs => (.a32, pDpRegReg opA, [c.num, s.toNat, rn.toNat, rd.toNat, rs.toNat, t.num, m.toNat])
  | .thumb, .immT i =>
    let x := i.toNat
    match kind, s with
    | .shared, false => (.t32, tDpImm opT (.k 1 0) (.f 4) (.f 4), [x / 2048, rn.toNat, x / 256 % 8, rd.toNat, x % 256])
    | .shared, true => (.t32, tDpImm opT (.k 1 1) (.f 4) (.fx 4 15), [x / 2048, rn.toNat, x / 256 % 8, rd.toNat, x % 256])
    | .noPcN, _ => (.t32, tDpImm opT (.f 1) (.fx 4 15) (.f 4), [x / 2048, s.toNat, rn.toNat, x / 256 % 8, rd.toNat, x % 256])
    | .plain, _ => (.t32, tDpImm opT (.f 1) (.f 4) (.f 4), [x / 2048, s.toNat, rn.toNat, x / 256 % 8, rd.toNat, x % 256])
  | .thumb, .reg m t sh =>
    let x := sh.toNat
    match kind, s with
    | .shared, false => (.t32, tDpReg opT (.k 1 0) (.f 4) (.f 4), [rn.toNat, x / 4, rd.toNat, x % 4, t.num, m.toNat])
    | .shared, true => (.t32, tDpReg opT (.k 1 1) (.f 4) (.fx 4 15), [rn.toNat, x / 4, rd.toNat, x % 4, t.num, m.toNat])
    | .noPcN, _ => (.t32, tDpReg opT (.f 1) (.fx 4 15) (.f 4), [s.toNat, rn.toNat, x / 4, rd.toNat, x % 4, t.num, m.toNat])
    | .plain, _ => (.t32, tDpReg opT (.f 1) (.f 4) (.f 4), [s.toNat, rn.toNat, x / 4, rd.toNat, x % 4, t.num, m.toNat])
  | .a32 _, .immT _ => noRow
  | .thumb, .immA _ _ => noRow
  | .thumb, .regReg _ _ _ => noRow

/-- A test or compare (R117, R118). -/
def encTest (opA opT : Nat) (e : Enc) (rn : Reg) (o : Op2) : Enc1 :=
  match e, o with
  | .a32 c, .immA r i => (.a32, pTestImm opA, [c.num, rn.toNat, r.toNat, i.toNat])
  | .a32 c, .reg m t sh => (.a32, pTestReg opA, [c.num, rn.toNat, sh.toNat, t.num, m.toNat])
  | .a32 c, .regReg m t rs => (.a32, pTestRegReg opA, [c.num, rn.toNat, rs.toNat, t.num, m.toNat])
  | .thumb, .immT i =>
    (.t32, tDpImm opT (.k 1 1) (.f 4) (.k 4 15), [i.toNat / 2048, rn.toNat, i.toNat / 256 % 8, i.toNat % 256])
  | .thumb, .reg m t sh =>
    (.t32, tDpReg opT (.k 1 1) (.f 4) (.k 4 15), [rn.toNat, sh.toNat / 4, sh.toNat % 4, t.num, m.toNat])
  | .a32 _, .immT _ => noRow
  | .thumb, .immA _ _ => noRow
  | .thumb, .regReg _ _ _ => noRow

/-- MOV (R341); its words with RRX are those of `rrx`. -/
def encMov (e : Enc) (s : Bool) (rd : Reg) (o : Op2) : Enc1 :=
  match e, o with
  | .a32 c, .immA r i => (.a32, pMovImm 13, [c.num, s.toNat, rd.toNat, r.toNat, i.toNat])
  | .a32 c, .reg m .ror sh => (.a32, pMovReg 13 (.fx 5 0) (.k 2 3), [c.num, s.toNat, rd.toNat, sh.toNat, m.toNat])
  | .a32 c, .reg m t sh => (.a32, pMovReg 13 (.f 5) (.fx 2 3), [c.num, s.toNat, rd.toNat, sh.toNat, t.num, m.toNat])
  | .a32 c, .regReg m t rs => (.a32, pMovRegReg 13, [c.num, s.toNat, rd.toNat, rs.toNat, t.num, m.toNat])
  | .thumb, .immT i =>
    (.t32, tDpImm 2 (.f 1) (.k 4 15) (.f 4),
      [i.toNat / 2048, s.toNat, i.toNat / 256 % 8, rd.toNat, i.toNat % 256])
  | .thumb, .reg m .ror sh =>
    if sh.toNat / 4 = 0 then
      (.t32, tMovReg (.k 3 0) (.fx 2 0) (.k 2 3), [s.toNat, rd.toNat, sh.toNat % 4, m.toNat])
    else (.t32, tMovReg (.fx 3 0) (.f 2) (.k 2 3), [s.toNat, sh.toNat / 4, rd.toNat, sh.toNat % 4, m.toNat])
  | .thumb, .reg m t sh =>
    (.t32, tMovReg (.f 3) (.f 2) (.fx 2 3), [s.toNat, sh.toNat / 4, rd.toNat, sh.toNat % 4, t.num, m.toNat])
  | .a32 _, .immT _ => noRow
  | .thumb, .immA _ _ => noRow
  | .thumb, .regReg _ _ _ => noRow

/-- MVN (R342). -/
def encMvn (e : Enc) (s : Bool) (rd : Reg) (o : Op2) : Enc1 :=
  match e, o with
  | .a32 c, .immA r i => (.a32, pMovImm 15, [c.num, s.toNat, rd.toNat, r.toNat, i.toNat])
  | .a32 c, .reg m t sh => (.a32, pMovReg 15 (.f 5) (.f 2), [c.num, s.toNat, rd.toNat, sh.toNat, t.num, m.toNat])
  | .a32 c, .regReg m t rs => (.a32, pMovRegReg 15, [c.num, s.toNat, rd.toNat, rs.toNat, t.num, m.toNat])
  | .thumb, .immT i =>
    (.t32, tDpImm 3 (.f 1) (.k 4 15) (.f 4),
      [i.toNat / 2048, s.toNat, i.toNat / 256 % 8, rd.toNat, i.toNat % 256])
  | .thumb, .reg m t sh =>
    (.t32, tDpReg 3 (.f 1) (.k 4 15) (.f 4), [s.toNat, sh.toNat / 4, rd.toNat, sh.toNat % 4, t.num, m.toNat])
  | .a32 _, .immT _ => noRow
  | .thumb, .immA _ _ => noRow
  | .thumb, .regReg _ _ _ => noRow

/-- An instruction with an A32 row (a condition, then the fields) and a T32 row. -/
def encTwo (e : Enc) (pa : List Seg) (fa : List Nat) (pt : List Seg) (ft : List Nat) : Enc1 :=
  match e with
  | .a32 c => (.a32, pa, c.num :: fa)
  | .thumb => (.t32, pt, ft)

/-- A parallel instruction (R230). -/
def encPar (pa oa pt ot : Nat) (e : Enc) (rd rn rm : Reg) : Enc1 :=
  encTwo e (pMedia (96 + pa) oa) [rn.toNat, rd.toNat, rm.toNat] (tReg (8 + ot) pt) [rn.toNat, rd.toNat, rm.toNat]

/-- SSAT and USAT (R269, R271). -/
def encSat (opA opT : Nat) (e : Enc) (rd : Reg) (q : BitVec 5) (sh : Bool) (imm5 : BitVec 5) (rm : Reg) : Enc1 :=
  match e, sh with
  | .a32 c, _ => (.a32, pSat opA, [c.num, q.toNat, rd.toNat, imm5.toNat, sh.toNat, rm.toNat])
  | .thumb, false =>
    (.t32, tSat opT (.k 1 0) (.f 3) (.f 2), [rm.toNat, imm5.toNat / 4, rd.toNat, imm5.toNat % 4, q.toNat])
  | .thumb, true =>
    if imm5.toNat / 4 = 0 then
      (.t32, tSat opT (.k 1 1) (.k 3 0) (.fx 2 0), [rm.toNat, rd.toNat, imm5.toNat % 4, q.toNat])
    else (.t32, tSat opT (.k 1 1) (.fx 3 0) (.f 2), [rm.toNat, imm5.toNat / 4, rd.toNat, imm5.toNat % 4, q.toNat])

/-- A multiply with an S bit in A32 and none in T32 (R117, R118). -/
def encLong (opA opT : Nat) (e : Enc) (s : Bool) (lo hi rm rs : Reg) : Enc1 :=
  encTwo e (pMul opA (.f 1) (.f 4)) [s.toNat, hi.toNat, lo.toNat, rs.toNat, rm.toNat]
    (tLong opT 0) [rm.toNat, lo.toNat, hi.toNat, rs.toNat]

/-- The X and R multiplies without accumulator (R304, R307, R310). -/
def encDual3 (opA op2 opT : Nat) (e : Enc) (x : Bool) (rd rm rs : Reg) : Enc1 :=
  encTwo e (pDual opA (.k 4 15) op2) [rd.toNat, rs.toNat, x.toNat, rm.toNat]
    (tMulX opT (.k 4 15)) [rm.toNat, rd.toNat, x.toNat, rs.toNat]

/-- The X and R multiplies with accumulator (R305, R308, R311, R312); `n` is the Rn segment. -/
def encDual4 (opA : Nat) (n : Seg) (op2 opT : Nat) (e : Enc) (x : Bool) (rd rm rs rn : Reg) : Enc1 :=
  encTwo e (pDual opA n op2) [rd.toNat, rn.toNat, rs.toNat, x.toNat, rm.toNat]
    (tMulX opT n) [rm.toNat, rn.toNat, rd.toNat, x.toNat, rs.toNat]

/-- The X long multiplies (R306, R309). -/
def encDualLong (op2 opT : Nat) (e : Enc) (x : Bool) (lo hi rm rs : Reg) : Enc1 :=
  encTwo e (pDual 116 (.f 4) op2) [hi.toNat, lo.toNat, rs.toNat, x.toNat, rm.toNat]
    (tLongX opT 6) [rm.toNat, lo.toNat, hi.toNat, x.toNat, rs.toNat]

/-- CLZ and the reversals (R352, R399 to R402): T32 names Rm twice. -/
def encOne (opA op2 opT op2T : Nat) (e : Enc) (rd rm : Reg) : Enc1 :=
  encTwo e (pOne opA op2) [rd.toNat, rm.toNat] (tReg opT op2T) [rm.toNat, rd.toNat, rm.toNat]

/-- The extends without addition (R387 to R392). -/
def encExt (opA opT : Nat) (e : Enc) (rd rm : Reg) (rot : BitVec 2) : Enc1 :=
  encTwo e (pExt opA (.k 4 15)) [rd.toNat, rot.toNat, rm.toNat] (tExt opT (.k 4 15)) [rd.toNat, rot.toNat, rm.toNat]

/-- The extends with addition (R393 to R398). -/
def encExtAdd (opA opT : Nat) (e : Enc) (rd rn rm : Reg) (rot : BitVec 2) : Enc1 :=
  encTwo e (pExt opA (.fx 4 15)) [rn.toNat, rd.toNat, rot.toNat, rm.toNat]
    (tExt opT (.fx 4 15)) [rn.toNat, rd.toNat, rot.toNat, rm.toNat]

/-- CPSIE and CPSID (R454, R455). -/
def encCpsI (imod : Nat) (thumb m a i f : Bool) (mode : BitVec 5) : Enc1 :=
  (if thumb then .t32 else .a32, if thumb then tCpsI imod else pCpsI imod,
    [m.toNat, a.toNat, i.toNat, f.toNat, mode.toNat])

/-- A load or store (R476): the A32 byte, load and S:H values, the T32 S, size and load values and Rd segment. -/
def encMem (b l sh s sz : Nat) (d : Seg) (e : Enc) (rd : Reg) (m : MemForm) : Enc1 :=
  match e, m with
  | .a32 c, .aImm idx u n i =>
    (.a32, pMemImm idx.p b idx.w l, [c.num, u.toNat, n.toNat, rd.toNat, i.toNat])
  | .a32 c, .aReg idx u n m t k =>
    (.a32, pMemReg idx.p b idx.w l, [c.num, u.toNat, n.toNat, rd.toNat, k.toNat, t.num, m.toNat])
  | .a32 c, .aImm8 idx u n i =>
    (.a32, pMemImm8 idx.p idx.w l sh, [c.num, u.toNat, n.toNat, rd.toNat, i.toNat / 16, i.toNat % 16])
  | .a32 c, .aReg0 idx u n m => (.a32, pMemReg0 idx.p idx.w l sh, [c.num, u.toNat, n.toNat, rd.toNat, m.toNat])
  | .thumb, .tImm12 n i => (.t32, tMem12 s sz l d, [n.toNat, rd.toNat, i.toNat])
  | .thumb, .tImm8 .offset _ n i => (.t32, tMem8N s sz l d, [n.toNat, rd.toNat, i.toNat])
  | .thumb, .tImm8 .pre u n i => (.t32, tMem8 s sz l d 1 1, [n.toNat, rd.toNat, u.toNat, i.toNat])
  | .thumb, .tImm8 .post u n i => (.t32, tMem8 s sz l d 0 1, [n.toNat, rd.toNat, u.toNat, i.toNat])
  | .thumb, .tReg n m k => (.t32, tMemReg s sz l d, [n.toNat, rd.toNat, k.toNat, m.toNat])
  | .thumb, .tLit u i => (.t32, tMemLit s sz d, [u.toNat, rd.toNat, i.toNat])
  | .a32 _, .tImm12 _ _ => noRow
  | .a32 _, .tImm8 _ _ _ _ => noRow
  | .a32 _, .tReg _ _ _ => noRow
  | .a32 _, .tLit _ _ => noRow
  | .thumb, .aImm _ _ _ _ => noRow
  | .thumb, .aReg _ _ _ _ _ _ => noRow
  | .thumb, .aImm8 _ _ _ _ => noRow
  | .thumb, .aReg0 _ _ _ _ => noRow

/-- A `T` instruction (R476, R488 to R495). -/
def encMemT (b l sh s sz lT : Nat) (e : Enc) (rd : Reg) (m : MemFormT) : Enc1 :=
  match e, m with
  | .a32 c, .aImm u n i => (.a32, pMemImm 0 b 1 l, [c.num, u.toNat, n.toNat, rd.toNat, i.toNat])
  | .a32 c, .aReg u n m t k => (.a32, pMemReg 0 b 1 l, [c.num, u.toNat, n.toNat, rd.toNat, k.toNat, t.num, m.toNat])
  | .a32 c, .aImm8 u n i =>
    (.a32, pMemImm8 0 1 l sh, [c.num, u.toNat, n.toNat, rd.toNat, i.toNat / 16, i.toNat % 16])
  | .a32 c, .aReg0 u n m => (.a32, pMemReg0 0 1 l sh, [c.num, u.toNat, n.toNat, rd.toNat, m.toNat])
  | .thumb, .tImm8 n i => (.t32, tMemT s sz lT, [n.toNat, rd.toNat, i.toNat])
  | .a32 _, .tImm8 _ _ => noRow
  | .thumb, .aImm _ _ _ => noRow
  | .thumb, .aReg _ _ _ _ _ => noRow
  | .thumb, .aImm8 _ _ _ => noRow
  | .thumb, .aReg0 _ _ _ => noRow

/-- The T3 encoding of B: its cond field cut as the three T3 rows cut it (R422). -/
def encB3 (c : Cond) (s j1 j2 : Bool) (imm6 : BitVec 6) (imm11 : BitVec 11) : Enc1 :=
  if c.num < 8 then
    (.t32, tB3 (.k 1 0) (.f 3), [s.toNat, c.num, imm6.toNat, j1.toNat, j2.toNat, imm11.toNat])
  else if c.num < 12 then
    (.t32, tB3 (.k 2 2) (.f 2), [s.toNat, c.num - 8, imm6.toNat, j1.toNat, j2.toNat, imm11.toNat])
  else (.t32, tB3 (.k 3 6) (.f 1), [s.toNat, c.num - 12, imm6.toNat, j1.toNat, j2.toNat, imm11.toNat])

/-- The row of a well-formed instruction and its field values. -/
def encodeRow : Instr → Enc1
  | .and e s rd rn o => encDp 0 0 .shared e s rd rn o
  | .eor e s rd rn o => encDp 1 4 .shared e s rd rn o
  | .sub e s rd rn o => encDp 2 13 .shared e s rd rn o
  | .rsb e s rd rn o => encDp 3 14 .plain e s rd rn o
  | .add e s rd rn o => encDp 4 8 .shared e s rd rn o
  | .adc e s rd rn o => encDp 5 10 .plain e s rd rn o
  | .sbc e s rd rn o => encDp 6 11 .plain e s rd rn o
  | .orr e s rd rn o => encDp 12 2 .noPcN e s rd rn o
  | .bic e s rd rn o => encDp 14 1 .plain e s rd rn o
  | .rsc c s rd rn o => encDp 7 0 .plain (.a32 c) s rd rn o
  | .orn s rd rn o => encDp 0 3 .noPcN .thumb s rd rn o
  | .tst e rn o => encTest 8 0 e rn o
  | .teq e rn o => encTest 9 4 e rn o
  | .cmp e rn o => encTest 10 13 e rn o
  | .cmn e rn o => encTest 11 8 e rn o
  | .mov e s rd o => encMov e s rd o
  | .mvn e s rd o => encMvn e s rd o
  | .rrx e s rd rm => encTwo e (pMovReg 13 (.k 5 0) (.k 2 3)) [s.toNat, rd.toNat, rm.toNat]
      (tMovReg (.k 3 0) (.k 2 0) (.k 2 3)) [s.toNat, rd.toNat, rm.toNat]
  | .adr add rd i => (.t32, tPlain (if add then 0 else 10) (.k 4 15), [i.toNat / 2048, i.toNat / 256 % 8, rd.toNat, i.toNat % 256])
  | .subsPcLr i => (.t32, tSubs, [i.toNat])
  | .lsl s rd rm rs => (.t32, tShift 0, [s.toNat, rm.toNat, rd.toNat, rs.toNat])
  | .lsr s rd rm rs => (.t32, tShift 1, [s.toNat, rm.toNat, rd.toNat, rs.toNat])
  | .asr s rd rm rs => (.t32, tShift 2, [s.toNat, rm.toNat, rd.toNat, rs.toNat])
  | .ror s rd rm rs => (.t32, tShift 3, [s.toNat, rm.toNat, rd.toNat, rs.toNat])
  | .movw e rd i => encTwo e (pImm16 0) [i.toNat / 4096, rd.toNat, i.toNat % 4096] (tPlain 4 (.f 4))
      [i.toNat / 2048 % 2, i.toNat / 4096, i.toNat / 256 % 8, rd.toNat, i.toNat % 256]
  | .movt e rd i => encTwo e (pImm16 4) [i.toNat / 4096, rd.toNat, i.toNat % 4096] (tPlain 12 (.f 4))
      [i.toNat / 2048 % 2, i.toNat / 4096, i.toNat / 256 % 8, rd.toNat, i.toNat % 256]
  | .addw rd rn i => (.t32, tPlain 0 (.fx 4 15), [i.toNat / 2048, rn.toNat, i.toNat / 256 % 8, rd.toNat, i.toNat % 256])
  | .subw rd rn i => (.t32, tPlain 10 (.fx 4 15), [i.toNat / 2048, rn.toNat, i.toNat / 256 % 8, rd.toNat, i.toNat % 256])
  | .qadd e rd rm rn => encTwo e (pSatAdd 0) [rn.toNat, rd.toNat, rm.toNat] (tReg 8 8) [rn.toNat, rd.toNat, rm.toNat]
  | .qsub e rd rm rn => encTwo e (pSatAdd 1) [rn.toNat, rd.toNat, rm.toNat] (tReg 8 10) [rn.toNat, rd.toNat, rm.toNat]
  | .qdadd e rd rm rn => encTwo e (pSatAdd 2) [rn.toNat, rd.toNat, rm.toNat] (tReg 8 9) [rn.toNat, rd.toNat, rm.toNat]
  | .qdsub e rd rm rn => encTwo e (pSatAdd 3) [rn.toNat, rd.toNat, rm.toNat] (tReg 8 11) [rn.toNat, rd.toNat, rm.toNat]
  | .sadd16 e rd rn rm => encPar 1 0 0 1 e rd rn rm
  | .qadd16 e rd rn rm => encPar 2 0 1 1 e rd rn rm
  | .shadd16 e rd rn rm => encPar 3 0 2 1 e rd rn rm
  | .uadd16 e rd rn rm => encPar 5 0 4 1 e rd rn rm
  | .uqadd16 e rd rn rm => encPar 6 0 5 1 e rd rn rm
  | .uhadd16 e rd rn rm => encPar 7 0 6 1 e rd rn rm
  | .ssub16 e rd rn rm => encPar 1 3 0 5 e rd rn rm
  | .qsub16 e rd rn rm => encPar 2 3 1 5 e rd rn rm
  | .shsub16 e rd rn rm => encPar 3 3 2 5 e rd rn rm
  | .usub16 e rd rn rm => encPar 5 3 4 5 e rd rn rm
  | .uqsub16 e rd rn rm => encPar 6 3 5 5 e rd rn rm
  | .uhsub16 e rd rn rm => encPar 7 3 6 5 e rd rn rm
  | .sadd8 e rd rn rm => encPar 1 4 0 0 e rd rn rm
  | .qadd8 e rd rn rm => encPar 2 4 1 0 e rd rn rm
  | .shadd8 e rd rn rm => encPar 3 4 2 0 e rd rn rm
  | .uadd8 e rd rn rm => encPar 5 4 4 0 e rd rn rm
  | .uqadd8 e rd rn rm => encPar 6 4 5 0 e rd rn rm
  | .uhadd8 e rd rn rm => encPar 7 4 6 0 e rd rn rm
  | .ssub8 e rd rn rm => encPar 1 7 0 4 e rd rn rm
  | .qsub8 e rd rn rm => encPar 2 7 1 4 e rd rn rm
  | .shsub8 e rd rn rm => encPar 3 7 2 4 e rd rn rm
  | .usub8 e rd rn rm => encPar 5 7 4 4 e rd rn rm
  | .uqsub8 e rd rn rm => encPar 6 7 5 4 e rd rn rm
  | .uhsub8 e rd rn rm => encPar 7 7 6 4 e rd rn rm
  | .sasx e rd rn rm => encPar 1 1 0 2 e rd rn rm
  | .qasx e rd rn rm => encPar 2 1 1 2 e rd rn rm
  | .shasx e rd rn rm => encPar 3 1 2 2 e rd rn rm
  | .uasx e rd rn rm => encPar 5 1 4 2 e rd rn rm
  | .uqasx e rd rn rm => encPar 6 1 5 2 e rd rn rm
  | .uhasx e rd rn rm => encPar 7 1 6 2 e rd rn rm
  | .ssax e rd rn rm => encPar 1 2 0 6 e rd rn rm
  | .qsax e rd rn rm => encPar 2 2 1 6 e rd rn rm
  | .shsax e rd rn rm => encPar 3 2 2 6 e rd rn rm
  | .usax e rd rn rm => encPar 5 2 4 6 e rd rn rm
  | .uqsax e rd rn rm => encPar 6 2 5 6 e rd rn rm
  | .uhsax e rd rn rm => encPar 7 2 6 6 e rd rn rm
  | .usad8 e rd rm rs => encTwo e (pMedia4 120 (.k 4 15) 1) [rd.toNat, rs.toNat, rm.toNat]
      (tMul 7 (.k 4 15) 0) [rm.toNat, rd.toNat, rs.toNat]
  | .usada8 e rd rm rs rn => encTwo e (pMedia4 120 (.fx 4 15) 1) [rd.toNat, rn.toNat, rs.toNat, rm.toNat]
      (tMul 7 (.fx 4 15) 0) [rm.toNat, rn.toNat, rd.toNat, rs.toNat]
  | .ssat e rd q sh i rm => encSat 53 4 e rd q sh i rm
  | .usat e rd q sh i rm => encSat 55 6 e rd q sh i rm
  | .ssat16 e rd q rm => encTwo e (pSat16 106) [q.toNat, rd.toNat, rm.toNat] (tSat16 4) [rm.toNat, rd.toNat, q.toNat]
  | .usat16 e rd q rm => encTwo e (pSat16 110) [q.toNat, rd.toNat, rm.toNat] (tSat16 6) [rm.toNat, rd.toNat, q.toNat]
  | .mul e s rd rm rs => encTwo e (pMul 0 (.f 1) (.k 4 0)) [s.toNat, rd.toNat, rs.toNat, rm.toNat]
      (tMul 0 (.k 4 15) 0) [rm.toNat, rd.toNat, rs.toNat]
  | .mla e s rd rm rs rn => encTwo e (pMul 1 (.f 1) (.f 4)) [s.toNat, rd.toNat, rn.toNat, rs.toNat, rm.toNat]
      (tMul 0 (.fx 4 15) 0) [rm.toNat, rn.toNat, rd.toNat, rs.toNat]
  | .mls e rd rm rs rn => encTwo e (pMul 3 (.k 1 0) (.f 4)) [rd.toNat, rn.toNat, rs.toNat, rm.toNat]
      (tMul 0 (.f 4) 1) [rm.toNat, rn.toNat, rd.toNat, rs.toNat]
  | .umaal e lo hi rm rs => encTwo e (pMul 2 (.k 1 0) (.f 4)) [hi.toNat, lo.toNat, rs.toNat, rm.toNat]
      (tLong 6 6) [rm.toNat, lo.toNat, hi.toNat, rs.toNat]
  | .umull e s lo hi rm rs => encLong 4 2 e s lo hi rm rs
  | .umlal e s lo hi rm rs => encLong 5 6 e s lo hi rm rs
  | .smull e s lo hi rm rs => encLong 6 0 e s lo hi rm rs
  | .smlal e s lo hi rm rs => encLong 7 4 e s lo hi rm rs
  | .smlaxy e x y rd rm rs rn => encTwo e (pHalfXY 16 (.f 4)) [rd.toNat, rn.toNat, rs.toNat, y.toNat, x.toNat, rm.toNat]
      (tMulXY (.fx 4 15)) [rm.toNat, rn.toNat, rd.toNat, x.toNat, y.toNat, rs.toNat]
  | .smlawy e y rd rm rs rn => encTwo e (pHalfY (.f 4) 0) [rd.toNat, rn.toNat, rs.toNat, y.toNat, rm.toNat]
      (tMulX 3 (.fx 4 15)) [rm.toNat, rn.toNat, rd.toNat, y.toNat, rs.toNat]
  | .smulwy e y rd rm rs => encTwo e (pHalfY (.k 4 0) 1) [rd.toNat, rs.toNat, y.toNat, rm.toNat]
      (tMulX 3 (.k 4 15)) [rm.toNat, rd.toNat, y.toNat, rs.toNat]
  | .smlalxy e x y lo hi rm rs => encTwo e (pHalfXY 20 (.f 4)) [hi.toNat, lo.toNat, rs.toNat, y.toNat, x.toNat, rm.toNat]
      tLongXY [rm.toNat, lo.toNat, hi.toNat, x.toNat, y.toNat, rs.toNat]
  | .smulxy e x y rd rm rs => encTwo e (pHalfXY 22 (.k 4 0)) [rd.toNat, rs.toNat, y.toNat, x.toNat, rm.toNat]
      (tMulXY (.k 4 15)) [rm.toNat, rd.toNat, x.toNat, y.toNat, rs.toNat]
  | .smuad e x rd rm rs => encDual3 112 0 2 e x rd rm rs
  | .smusd e x rd rm rs => encDual3 112 1 4 e x rd rm rs
  | .smmul e x rd rm rs => encDual3 117 0 5 e x rd rm rs
  | .smlad e x rd rm rs rn => encDual4 112 (.fx 4 15) 0 2 e x rd rm rs rn
  | .smlsd e x rd rm rs rn => encDual4 112 (.fx 4 15) 1 4 e x rd rm rs rn
  | .smmla e x rd rm rs rn => encDual4 117 (.fx 4 15) 0 5 e x rd rm rs rn
  | .smmls e x rd rm rs rn => encDual4 117 (.f 4) 3 6 e x rd rm rs rn
  | .smlald e x lo hi rm rs => encDualLong 0 4 e x lo hi rm rs
  | .smlsld e x lo hi rm rs => encDualLong 1 5 e x lo hi rm rs
  | .mia c rm rs => (.a32, pMia 0, [c.num, rs.toNat, rm.toNat])
  | .miaph c rm rs => (.a32, pMia 8, [c.num, rs.toNat, rm.toNat])
  | .miaxy c x y rm rs => (.a32, pMiaXY, [c.num, x.toNat, y.toNat, rs.toNat, rm.toNat])
  | .mar c lo hi => (.a32, pAcc 0, [c.num, hi.toNat, lo.toNat])
  | .mra c lo hi => (.a32, pAcc 1, [c.num, hi.toNat, lo.toNat])
  | .sdiv e rd rn rm => encTwo e (pMedia4 113 (.k 4 15) 1) [rd.toNat, rm.toNat, rn.toNat]
      (tDiv 1) [rn.toNat, rd.toNat, rm.toNat]
  | .udiv e rd rn rm => encTwo e (pMedia4 115 (.k 4 15) 1) [rd.toNat, rm.toNat, rn.toNat]
      (tDiv 3) [rn.toNat, rd.toNat, rm.toNat]
  | .clz e rd rm => encOne 22 1 11 8 e rd rm
  | .rev e rd rm => encOne 107 3 9 8 e rd rm
  | .rev16 e rd rm => encOne 107 11 9 9 e rd rm
  | .rbit e rd rm => encOne 111 3 9 10 e rd rm
  | .revsh e rd rm => encOne 111 11 9 11 e rd rm
  | .bfc e rd l w => encTwo e (pBf 62 1 (.k 4 15)) [w.toNat, rd.toNat, l.toNat]
      (tBf 22 (.k 4 15)) [l.toNat / 4, rd.toNat, l.toNat % 4, w.toNat]
  | .bfi e rd rn l w => encTwo e (pBf 62 1 (.fx 4 15)) [w.toNat, rd.toNat, l.toNat, rn.toNat]
      (tBf 22 (.fx 4 15)) [rn.toNat, l.toNat / 4, rd.toNat, l.toNat % 4, w.toNat]
  | .sbfx e rd rn l w => encTwo e (pBf 61 5 (.f 4)) [w.toNat, rd.toNat, l.toNat, rn.toNat]
      (tBf 20 (.f 4)) [rn.toNat, l.toNat / 4, rd.toNat, l.toNat % 4, w.toNat]
  | .ubfx e rd rn l w => encTwo e (pBf 63 5 (.f 4)) [w.toNat, rd.toNat, l.toNat, rn.toNat]
      (tBf 28 (.f 4)) [rn.toNat, l.toNat / 4, rd.toNat, l.toNat % 4, w.toNat]
  | .pkhbt e rd rn rm i => encTwo e (pPkh 0) [rn.toNat, rd.toNat, i.toNat, rm.toNat]
      (tPkh 0) [rn.toNat, i.toNat / 4, rd.toNat, i.toNat % 4, rm.toNat]
  | .pkhtb e rd rn rm i => encTwo e (pPkh 1) [rn.toNat, rd.toNat, i.toNat, rm.toNat]
      (tPkh 1) [rn.toNat, i.toNat / 4, rd.toNat, i.toNat % 4, rm.toNat]
  | .sxth e rd rm r => encExt 107 0 e rd rm r
  | .sxtb16 e rd rm r => encExt 104 2 e rd rm r
  | .sxtb e rd rm r => encExt 106 4 e rd rm r
  | .uxth e rd rm r => encExt 111 1 e rd rm r
  | .uxtb16 e rd rm r => encExt 108 3 e rd rm r
  | .uxtb e rd rm r => encExt 110 5 e rd rm r
  | .sxtah e rd rn rm r => encExtAdd 107 0 e rd rn rm r
  | .sxtab16 e rd rn rm r => encExtAdd 104 2 e rd rn rm r
  | .sxtab e rd rn rm r => encExtAdd 106 4 e rd rn rm r
  | .uxtah e rd rn rm r => encExtAdd 111 1 e rd rn rm r
  | .uxtab16 e rd rn rm r => encExtAdd 108 3 e rd rn rm r
  | .uxtab e rd rn rm r => encExtAdd 110 5 e rd rn rm r
  | .sel e rd rn rm => encTwo e (pMedia 104 5) [rn.toNat, rd.toNat, rm.toNat] (tReg 10 8) [rn.toNat, rd.toNat, rm.toNat]
  | .it c m => (.t16, hIt, [c.toNat, m.toNat])
  | .b (.a32 c i) => (.a32, pBranch 0, [c.num, i.toNat])
  | .b (.t3 c s j1 j2 i l) => encB3 c s j1 j2 i l
  | .b (.t4 s j1 j2 i l) => (.t32, tB4 0, [s.toNat, i.toNat, j1.toNat, j2.toNat, l.toNat])
  | .bl (.a32 c i) => (.a32, pBranch 1, [c.num, i.toNat])
  | .bl (.t32 s j1 j2 i l) => (.t32, tB4 1, [s.toNat, i.toNat, j1.toNat, j2.toNat, l.toNat])
  | .blxLabel (.a32 h i) => (.a32, pBlx, [h.toNat, i.toNat])
  | .blxLabel (.t32 s j1 j2 i l) => (.t32, tBlx, [s.toNat, i.toNat, j1.toNat, j2.toNat, l.toNat])
  | .bx (.a32 c) m => (.a32, pBx 1, [c.num, m.toNat])
  | .bx .thumb m => (.t16, hBx 0, [m.toNat])
  | .blxReg (.a32 c) m => (.a32, pBx 3, [c.num, m.toNat])
  | .blxReg .thumb m => (.t16, hBx 1, [m.toNat])
  | .bxj e m => encTwo e (pBx 2) [m.toNat] tBxj [m.toNat]
  | .cbz i o n => (.t16, hCbz 0, [i.toNat, o.toNat, n.toNat])
  | .cbnz i o n => (.t16, hCbz 1, [i.toNat, o.toNat, n.toNat])
  | .tbb n m => (.t32, tTb 0, [n.toNat, m.toNat])
  | .tbh n m => (.t32, tTb 1, [n.toNat, m.toNat])
  | .mrs e r d => encTwo e pMrs [r.toNat, d.toNat] tMrs [r.toNat, d.toNat]
  | .msrReg e r k m => encTwo e pMsrReg [r.toNat, k.toNat, m.toNat] tMsr [r.toNat, m.toNat, k.toNat]
  | .msrImm c r k o i => (.a32, pMsrImm, [c.num, r.toNat, k.toNat, o.toNat, i.toNat])
  | .cpsie t m a i f mode => encCpsI 2 t m a i f mode
  | .cpsid t m a i f mode => encCpsI 3 t m a i f mode
  | .cps t mode => (if t then .t32 else .a32, if t then tCps else pCps, [mode.toNat])
  | .setend t big => (if t then .t16 else .a32, if t then hSetend else pSetend, [big.toNat])
  | .ldr e rd m => encMem 0 1 0 0 2 (.f 4) e rd m
  | .ldrb e rd m => encMem 1 1 0 0 0 (.fx 4 15) e rd m
  | .ldrsb e rd m => encMem 0 1 2 1 0 (.fx 4 15) e rd m
  | .ldrh e rd m => encMem 0 1 1 0 1 (.fx 4 15) e rd m
  | .ldrsh e rd m => encMem 0 1 3 1 1 (.fx 4 15) e rd m
  | .str e rd m => encMem 0 0 0 0 2 (.f 4) e rd m
  | .strb e rd m => encMem 1 0 0 0 0 (.f 4) e rd m
  | .strh e rd m => encMem 0 0 1 0 1 (.f 4) e rd m
  | .ldrt e rd m => encMemT 0 1 0 0 2 1 e rd m
  | .ldrbt e rd m => encMemT 1 1 0 0 0 1 e rd m
  | .ldrsbt e rd m => encMemT 0 1 2 1 0 1 e rd m
  | .ldrht e rd m => encMemT 0 1 1 0 1 1 e rd m
  | .ldrsht e rd m => encMemT 0 1 3 1 1 1 e rd m
  | .strt e rd m => encMemT 0 0 0 0 2 0 e rd m
  | .strbt e rd m => encMemT 1 0 0 0 0 0 e rd m
  | .strht e rd m => encMemT 0 0 1 0 1 0 e rd m

/-- The instruction's bits as a value of its instruction set. -/
def Code.ofNat (isa : Isa) (n : Nat) : Code :=
  match isa with
  | .a32 => .a32 (BitVec.ofNat 32 n)
  | .t32 => .t32 (BitVec.ofNat 32 n)
  | .t16 => .t16 (BitVec.ofNat 16 n)

/-- The bits of a well-formed instruction; `none` for a term that no row encodes. -/
def encode (i : Instr) : Option Code :=
  if i.wellFormed then
    let r := encodeRow i
    some (Code.ofNat r.1 (assemble r.2.1 r.2.2))
  else none

/-! ### The host's numbering of instruction words -/

/-- The bits `w` as an instruction: 16-bit rows are T16; a 32-bit number is A32 or T32 as log 15 says. -/
def tableCode (nbits w : Nat) : Code :=
  if nbits ≤ 16 then .t16 (BitVec.ofNat 16 w)
  else
    let v := BitVec.ofNat 32 w
    if v.toNat / 2 ^ 27 < 29 then .a32 v
    else if v.toNat / 2 ^ 24 = 0xF1 ∧ (decodeCode (.a32 v)).isSome then .a32 v
    else if (decodeCode (.t32 v)).isSome then .t32 v
    else .a32 v

/-- The instruction the decoder reads from an instruction whose bits are `w`, numbered as the opcode table
numbers them (R111, R114), laid out in memory order and decoded. -/
def decodeTableWord (nbits w : Nat) : Option Instr :=
  let c := tableCode nbits w
  match decode c.isThumb false (c.bytes false) with
  | .ok (i, _) => some i
  | .error _ => none

end Sys2Proof
end

