-- ==== Sys2Proof/Machine/State.lean ====
section
/-! DEFINITION. The machine's state as plain data (spec 10_state), the reasons a step can stop, and the state
after reset (R70, R570). -/

namespace Sys2Proof.Machine

open Sys2Proof

/-- The processor modes (R31). -/
inductive Mode where
  | usr | fiq | irq | svc | abt | und | sys
deriving DecidableEq, Repr

/-- The physical general registers (R31). -/
inductive PReg where
  | r0 | r1 | r2 | r3 | r4 | r5 | r6 | r7 | r8 | r9 | r10 | r11 | r12
  | r8Fiq | r9Fiq | r10Fiq | r11Fiq | r12Fiq
  | spUsr | lrUsr | spFiq | lrFiq | spIrq | lrIrq | spSvc | lrSvc | spAbt | lrAbt | spUnd | lrUnd
deriving DecidableEq, Repr

/-- The contents of the physical general registers (R31). -/
structure RegFile where
  r0 : Word
  r1 : Word
  r2 : Word
  r3 : Word
  r4 : Word
  r5 : Word
  r6 : Word
  r7 : Word
  r8 : Word
  r9 : Word
  r10 : Word
  r11 : Word
  r12 : Word
  r8Fiq : Word
  r9Fiq : Word
  r10Fiq : Word
  r11Fiq : Word
  r12Fiq : Word
  spUsr : Word
  lrUsr : Word
  spFiq : Word
  lrFiq : Word
  spIrq : Word
  lrIrq : Word
  spSvc : Word
  lrSvc : Word
  spAbt : Word
  lrAbt : Word
  spUnd : Word
  lrUnd : Word
deriving DecidableEq, Repr

/-- The CPSR as its fields (R50). Bits 23 to 20 are reserved and read as zero, so they are not held. -/
structure Cpsr where
  n : Bool
  z : Bool
  c : Bool
  v : Bool
  q : Bool
  it : BitVec 8
  j : Bool
  ge : BitVec 4
  e : Bool
  a : Bool
  i : Bool
  f : Bool
  t : Bool
  mode : Mode
deriving DecidableEq, Repr

/-- The state of the machine: every field is named by the spec, but for the model's own `stepNo` and `draws`. -/
structure State where
  /-- R6, R571: the parameters; no step changes them. -/
  cfg : Config
  /-- R30, R31. -/
  regs : RegFile
  /-- R40: the address of the instruction to execute. -/
  pc : Word
  /-- R50. -/
  cpsr : Cpsr
  /-- R56. -/
  spsrFiq : Word
  /-- R56. -/
  spsrIrq : Word
  /-- R56. -/
  spsrSvc : Word
  /-- R56. -/
  spsrAbt : Word
  /-- R56. -/
  spsrUnd : Word
  /-- R60: the XScale accumulator. -/
  ac : BitVec 40
  /-- R65, R80: the bytes that differ from what an unlisted address reads as, addresses rising (log 9). -/
  mem : List Host.Cell
  /-- The model's own: the number of this step, the argument of `Config.Interrupts` (log 11). -/
  stepNo : Nat
  /-- The model's own: how many free bits have been drawn (log 12). -/
  draws : Nat
deriving DecidableEq, Repr

/-- Why a data access aborts (R525, R522). -/
inductive AbortKind where
  /-- A misaligned access under `UnalignedPolicy = fault` (R85). Safe. -/
  | alignment
  /-- A byte outside `MemMap`. Safe. -/
  | translation
  /-- A right not granted at the effective privilege. Safe. -/
  | permission
deriving DecidableEq, Repr

/-- The reasons of an Undefined Instruction exception (R525): the spec has one. -/
inductive UndefinedReason where
  /-- SDIV or UDIV with a zero divisor under `DivByZero = fault` (R316, R317, R523). Safe. -/
  | divideByZero
deriving DecidableEq, Repr

/-- The exceptions of R525 and the `info` each records; `Reset` is raised by nothing in scope. -/
inductive Exc where
  /-- SDIV or UDIV by zero under `DivByZero = fault` (R316, R317): the reason and the instruction bits (log 24). Safe. -/
  | undefinedInstruction (reason : UndefinedReason) (bits : Option Code)
  /-- Raised by nothing in scope (R525); its entry is R526's. -/
  | supervisorCall
  /-- An instruction fetch (R84): the fetch address. Safe. -/
  | prefetchAbort (addr : Word)
  /-- A data access (R81, R82): kind, faulting byte address, and whether it is a write. Safe. -/
  | dataAbort (kind : AbortKind) (addr : Word) (write : Bool)
  /-- The asynchronous DataAbort of the oracle (R525, R540). Safe. -/
  | asyncAbort
  /-- The oracle's IRQ (R540). Safe. -/
  | irq
  /-- The oracle's FIQ (R540). Safe. -/
  | fiq
deriving DecidableEq, Repr

/-- How a run ends with a defined outcome. -/
inductive Fault where
  /-- `Fault(E, info, pc)` of R524, raised by an exception under `TrapModel = fault`. Safe: it is the spec's own
  outcome. -/
  | exception (e : Exc) (pc : Word)
  /-- The normal end of a run: a step that starts with pc = HaltAddress (R573, log 4). Not an error. Safe. -/
  | runEnded
deriving DecidableEq, Repr

/-- `REFUSED(reason)`: the spec gives the instruction no meaning (R8). Every reason is safe: a run that meets
one has no next state. -/
inductive Refusal where
  /-- An instruction the model has not reached yet. -/
  | notModelled (mnemonic : String)
  /-- No row of the opcode table matches the word (R114). -/
  | notInScope
  /-- The feature is absent, or the current state has no such encoding (R112). -/
  | notAvailable
  /-- R15 as destination (R43, R113). -/
  | pcAsDestination
  /-- R15 as a source where it is not allowed (R113). -/
  | pcOperand
  /-- R13 in Thumb state where it is not allowed (R113). -/
  | spOperand
  /-- RdLo = RdHi, and the overlaps refused before ARMv6 (R113). -/
  | sameRegister
  /-- Rn = Rd with write-back or post-indexing (R476). -/
  | baseIsDestination
  /-- Rm = Rn with write-back or post-indexing before ARMv6 (R476). -/
  | baseIsIndex
  /-- An immediate that R135 calls unpredictable. -/
  | unpredictableImmediate
  /-- A bit field outside the register (R380). -/
  | unpredictableBitField
  /-- IT inside an IT block (R421). -/
  | itInsideIt
  /-- IT with condition 1111, or an IT state holding it (R421, log 29). -/
  | unpredictableItCondition
  /-- IT AL with an Else (R421). -/
  | itAlWithElse
  /-- An instruction that may not stand in an IT block (R421). -/
  | notAllowedInIt
  /-- A branch that is not the last instruction of its IT block (R420). -/
  | branchInsideIt
  /-- The SPSR in User or System mode (R56, R214, R451, R452). -/
  | noSpsr
  /-- An exception return to no mode, or with J set (R214). -/
  | badReturnState
  /-- An exception return to ARM state at an address not a multiple of 4 (R214). -/
  | misalignedReturn
  /-- A branch to ARM state at an address not a multiple of 4 (R420). -/
  | misalignedBranchTarget
  /-- A value that is not a mode written to `M` (R450, R454 to R456). -/
  | badMode
  /-- BXJ with Jazelle available (R427). -/
  | jazelleNotModelled
  /-- A step with J = 1: Jazelle or ThumbEE state (R44, R582). -/
  | jazelleState
  /-- Sequential execution past 0xFFFFFFFF (R42, R582). -/
  | pcWrap
  /-- A store to an executable address (R94). -/
  | storeToCode
deriving DecidableEq, Repr

/-- Registers at reset: the spec gives them no value; every one is zero. DESIGN CHOICE (log 5). -/
def RegFile.zero : RegFile where
  r0 := 0#32
  r1 := 0#32
  r2 := 0#32
  r3 := 0#32
  r4 := 0#32
  r5 := 0#32
  r6 := 0#32
  r7 := 0#32
  r8 := 0#32
  r9 := 0#32
  r10 := 0#32
  r11 := 0#32
  r12 := 0#32
  r8Fiq := 0#32
  r9Fiq := 0#32
  r10Fiq := 0#32
  r11Fiq := 0#32
  r12Fiq := 0#32
  spUsr := 0#32
  lrUsr := 0#32
  spFiq := 0#32
  lrFiq := 0#32
  spIrq := 0#32
  lrIrq := 0#32
  spSvc := 0#32
  lrSvc := 0#32
  spAbt := 0#32
  lrAbt := 0#32
  spUnd := 0#32
  lrUnd := 0#32

/-- The CPSR after reset (R70) on a processor with parameters `c`; a field the processor lacks is zero (R50).
N, Z, C, V, Q and GE have no value in the spec: zero, DESIGN CHOICE (log 6). -/
def Cpsr.atReset (c : Config) : Cpsr where
  n := false
  z := false
  c := false
  v := false
  q := false
  it := 0#8
  j := false
  ge := 0#4
  e := c.haveV6 && c.dataBigEndianAtReset
  a := c.haveV6
  i := true
  f := true
  t := c.haveThumb && c.thumbExceptionEntry
  mode := .svc

/-- The state after reset on a processor with parameters `c` (R70, R570). -/
def State.resetFor (c : Config) : State where
  cfg := c
  regs := RegFile.zero
  pc := c.vectorBase
  cpsr := Cpsr.atReset c
  spsrFiq := 0#32
  spsrIrq := 0#32
  spsrSvc := 0#32
  spsrAbt := 0#32
  spsrUnd := 0#32
  ac := 0#40
  mem := []
  stepNo := 0
  draws := 0

/-- The machine right after reset (R70), with the parameters of `Config.atReset` (log 1, 2, 3, 4, 13). -/
def State.reset : State := State.resetFor Config.atReset

end Sys2Proof.Machine
end

