-- ==== Sys2Proof/Machine/Flags.lean ====
section
/-! DEFINITION. The mode numbers and the CPSR as a word (R31, R50), arithmetic with its flags, shifts with their
carry, saturation (spec 00_scope R9 to R11), the flag writes of R51, R58, R290, and the condition codes of R131. -/

namespace Sys2Proof.Machine

open Sys2Proof

/-- `M[4:0]` of a mode (R31). -/
def Mode.bits : Mode → BitVec 5
  | .usr => 16#5 | .fiq => 17#5 | .irq => 18#5 | .svc => 19#5 | .abt => 23#5 | .und => 27#5 | .sys => 31#5

/-- The mode of `M[4:0]`, where it is one of the seven (R31). -/
def Mode.ofBits (m : BitVec 5) : Option Mode :=
  match m.toNat with
  | 16 => some .usr | 17 => some .fiq | 18 => some .irq | 19 => some .svc | 23 => some .abt | 27 => some .und
  | 31 => some .sys | _ => none

/-- Every mode but User is privileged (R450, R545). -/
def Mode.privileged (m : Mode) : Bool := m != .usr

/-- The CPSR as a 32-bit word (R50). -/
def Cpsr.toWord (p : Cpsr) : Word :=
  BitVec.ofBool p.n ++ BitVec.ofBool p.z ++ BitVec.ofBool p.c ++ BitVec.ofBool p.v ++ BitVec.ofBool p.q ++
    p.it.extractLsb' 0 2 ++ BitVec.ofBool p.j ++ 0#4 ++ p.ge ++ p.it.extractLsb' 2 6 ++ BitVec.ofBool p.e ++
    BitVec.ofBool p.a ++ BitVec.ofBool p.i ++ BitVec.ofBool p.f ++ BitVec.ofBool p.t ++ p.mode.bits

/-- `AddWithCarry(a, b, cin)` (R9): the result, the carry and the overflow. -/
def addWithCarry (a b : Word) (cin : Bool) : Word × Bool × Bool :=
  let usum : Nat := a.toNat + b.toNat + cin.toNat
  let ssum : Int := a.toInt + b.toInt + (cin.toNat : Int)
  let result : Word := BitVec.ofNat 32 usum
  (result, result.toNat != usum, result.toInt != ssum)

/-- `ROR(v, n)` without carry (R10): the amount modulo 32. -/
def rorWord (v : Word) (n : Nat) : Word :=
  (v >>> (n % 32)) ||| (v <<< (32 - n % 32))

/-- `Shift_C(v, type, n, cin)` for the four shift types with an amount (R10). -/
def shiftC (v : Word) (ty : ShiftType) (n : Nat) (cin : Bool) : Word × Bool :=
  if n = 0 then (v, cin)
  else
    match ty with
    | .lsl => if n ≤ 32 then (v <<< n, (v.toNat * 2 ^ n).testBit 32) else (0#32, false)
    | .lsr => if n ≤ 32 then (v >>> n, v.getLsbD (n - 1)) else (0#32, false)
    | .asr =>
      if n < 32 then (v.sshiftRight n, v.getLsbD (n - 1))
      else (if v.msb then BitVec.allOnes 32 else 0#32, v.msb)
    | .ror =>
      let r := if n % 32 = 0 then v else rorWord v n
      (r, r.msb)

/-- `Shift_C(v, RRX, _, cin)` (R10): one place right, the carry coming in at the top. -/
def rrxC (v : Word) (cin : Bool) : Word × Bool :=
  (BitVec.ofBool cin ++ v.extractLsb' 1 31, v.getLsbD 0)

/-- `SignedSatQ(i, N)` (R11): the integer result and whether it saturated. -/
def signedSatQ (i : Int) (n : Nat) : Int × Bool :=
  if i > 2 ^ (n - 1) - 1 then (2 ^ (n - 1) - 1, true)
  else if i < -(2 ^ (n - 1)) then (-(2 ^ (n - 1)), true)
  else (i, false)

/-- `UnsignedSatQ(i, N)` (R11). -/
def unsignedSatQ (i : Int) (n : Nat) : Int × Bool :=
  if i > 2 ^ n - 1 then (2 ^ n - 1, true)
  else if i < 0 then (0, true)
  else (i, false)

/-- N and Z of a 32-bit result (R51). -/
def Cpsr.setNZ (p : Cpsr) (r : Word) : Cpsr := { p with n := r.msb, z := r == 0#32 }

/-- N, Z and the shifter's carry (R340). -/
def Cpsr.setNZC (p : Cpsr) (r : Word) (c : Bool) : Cpsr := { p with n := r.msb, z := r == 0#32, c := c }

/-- N, Z, C and V of an addition (R200). -/
def Cpsr.setNZCV (p : Cpsr) (r : Word) (c v : Bool) : Cpsr :=
  { p with n := r.msb, z := r == 0#32, c := c, v := v }

/-- Q is sticky: set on saturation or overflow, never cleared (R52). -/
def Cpsr.stickQ (p : Cpsr) (b : Bool) : Cpsr := { p with q := p.q || b }

/-- The flags of MUL{S} and MLA{S}: N, Z, and C*, a free bit where the flag is unpredictable (R58, R290). -/
def mulFlags32 (s : State) (r : Word) : State :=
  if s.cfg.mulFlagsUnpredictable then
    { s with cpsr := { s.cpsr with n := r.msb, z := r == 0#32, c := Config.freeBit s.draws }, draws := s.draws + 1 }
  else { s with cpsr := s.cpsr.setNZ r }

/-- The flags of the long multiplies with S: N, Z of the 64-bit result, C* and V* (R58, R290). -/
def mulFlags64 (s : State) (r : BitVec 64) : State :=
  if s.cfg.mulFlagsUnpredictable then
    { s with
      cpsr := { s.cpsr with
        n := r.msb, z := r == 0#64, c := Config.freeBit s.draws, v := Config.freeBit (s.draws + 1) }
      draws := s.draws + 2 }
  else { s with cpsr := { s.cpsr with n := r.msb, z := r == 0#64 } }

/-- The condition codes (R131). -/
def condHolds (c : Cond) (p : Cpsr) : Bool :=
  match c with
  | .eq => p.z
  | .ne => !p.z
  | .cs => p.c
  | .cc => !p.c
  | .mi => p.n
  | .pl => !p.n
  | .vs => p.v
  | .vc => !p.v
  | .hi => p.c && !p.z
  | .ls => !p.c || p.z
  | .ge => p.n == p.v
  | .lt => p.n != p.v
  | .gt => !p.z && p.n == p.v
  | .le => p.z || p.n != p.v
  | .al => true

end Sys2Proof.Machine
end

