-- ==== Sys2Proof/Machine/Ops.lean ====
section
/-! DEFINITION. The named operations over registers and memory, writing the PC, taking an exception (R526) and
returning from one (R214), and the order in which a step's checks apply (R582). -/

namespace Sys2Proof.Machine

open Sys2Proof

/-! ### General registers (R31) -/

/-- The contents of a physical register. -/
def RegFile.get (f : RegFile) : PReg → Word
  | .r0 => f.r0
  | .r1 => f.r1
  | .r2 => f.r2
  | .r3 => f.r3
  | .r4 => f.r4
  | .r5 => f.r5
  | .r6 => f.r6
  | .r7 => f.r7
  | .r8 => f.r8
  | .r9 => f.r9
  | .r10 => f.r10
  | .r11 => f.r11
  | .r12 => f.r12
  | .r8Fiq => f.r8Fiq
  | .r9Fiq => f.r9Fiq
  | .r10Fiq => f.r10Fiq
  | .r11Fiq => f.r11Fiq
  | .r12Fiq => f.r12Fiq
  | .spUsr => f.spUsr
  | .lrUsr => f.lrUsr
  | .spFiq => f.spFiq
  | .lrFiq => f.lrFiq
  | .spIrq => f.spIrq
  | .lrIrq => f.lrIrq
  | .spSvc => f.spSvc
  | .lrSvc => f.lrSvc
  | .spAbt => f.spAbt
  | .lrAbt => f.lrAbt
  | .spUnd => f.spUnd
  | .lrUnd => f.lrUnd

/-- The register file with one physical register replaced. -/
def RegFile.set (f : RegFile) (p : PReg) (v : Word) : RegFile :=
  match p with
  | .r0 => { f with r0 := v }
  | .r1 => { f with r1 := v }
  | .r2 => { f with r2 := v }
  | .r3 => { f with r3 := v }
  | .r4 => { f with r4 := v }
  | .r5 => { f with r5 := v }
  | .r6 => { f with r6 := v }
  | .r7 => { f with r7 := v }
  | .r8 => { f with r8 := v }
  | .r9 => { f with r9 := v }
  | .r10 => { f with r10 := v }
  | .r11 => { f with r11 := v }
  | .r12 => { f with r12 := v }
  | .r8Fiq => { f with r8Fiq := v }
  | .r9Fiq => { f with r9Fiq := v }
  | .r10Fiq => { f with r10Fiq := v }
  | .r11Fiq => { f with r11Fiq := v }
  | .r12Fiq => { f with r12Fiq := v }
  | .spUsr => { f with spUsr := v }
  | .lrUsr => { f with lrUsr := v }
  | .spFiq => { f with spFiq := v }
  | .lrFiq => { f with lrFiq := v }
  | .spIrq => { f with spIrq := v }
  | .lrIrq => { f with lrIrq := v }
  | .spSvc => { f with spSvc := v }
  | .lrSvc => { f with lrSvc := v }
  | .spAbt => { f with spAbt := v }
  | .lrAbt => { f with lrAbt := v }
  | .spUnd => { f with spUnd := v }
  | .lrUnd => { f with lrUnd := v }

/-- The physical SP of a mode (R31). -/
def spOf : Mode → PReg
  | .usr => .spUsr | .fiq => .spFiq | .irq => .spIrq | .svc => .spSvc | .abt => .spAbt | .und => .spUnd
  | .sys => .spUsr

/-- The physical LR of a mode (R31). -/
def lrOf : Mode → PReg
  | .usr => .lrUsr | .fiq => .lrFiq | .irq => .lrIrq | .svc => .lrSvc | .abt => .lrAbt | .und => .lrUnd
  | .sys => .lrUsr

/-- The physical register behind general register `i` in a mode; R15 is the PC (R31). -/
def physReg (m : Mode) (i : Reg) : Option PReg :=
  match i.toNat with
  | 0 => some .r0 | 1 => some .r1 | 2 => some .r2 | 3 => some .r3
  | 4 => some .r4 | 5 => some .r5 | 6 => some .r6 | 7 => some .r7
  | 8 => some (if m = .fiq then .r8Fiq else .r8)
  | 9 => some (if m = .fiq then .r9Fiq else .r9)
  | 10 => some (if m = .fiq then .r10Fiq else .r10)
  | 11 => some (if m = .fiq then .r11Fiq else .r11)
  | 12 => some (if m = .fiq then .r12Fiq else .r12)
  | 13 => some (spOf m)
  | 14 => some (lrOf m)
  | _ => none

/-- What reading R15 gives: pc + 8 in ARM state, pc + 4 in Thumb state (R41). -/
def State.pcRead (s : State) : Word := if s.cpsr.t then s.pc + 4#32 else s.pc + 8#32

/-- `x[i]` (R8, R31, R41). -/
def State.reg (s : State) (i : Reg) : Word :=
  match physReg s.cpsr.mode i with
  | some p => s.regs.get p
  | none => s.pcRead

/-- `x[i] <- v` for i below 15 (R8). Writing R15 is a branch: every instruction that is not one refuses it
first (R43, R113), so that case changes nothing. -/
def State.setReg (s : State) (i : Reg) (v : Word) : State :=
  match physReg s.cpsr.mode i with
  | some p => { s with regs := s.regs.set p v }
  | none => s

/-- `x[hi], x[lo] <- v`: a 64-bit value to a register pair (R7). -/
def State.setPair (s : State) (lo hi : Reg) (v : BitVec 64) : State :=
  (s.setReg hi (v.extractLsb' 32 32)).setReg lo (v.extractLsb' 0 32)

/-! ### Memory (R80 to R86) -/

/-- What an address that memory does not list reads as: zero. DESIGN CHOICE, unsafe (log 9). -/
def blank : Byte := 0#8

/-- The byte at an address. -/
def Memory.get : List Host.Cell → Nat → Byte
  | [], _ => blank
  | (x, y) :: m, a => if a = x then y else Memory.get m a

/-- Memory with one byte replaced, in canonical form. -/
def Memory.put : List Host.Cell → Nat → Byte → List Host.Cell
  | [], a, b => if b = blank then [] else [(a, b)]
  | (x, y) :: m, a, b =>
    if a < x then (if b = blank then (x, y) :: m else (a, b) :: (x, y) :: m)
    else if a = x then (if b = blank then m else (a, b) :: m)
    else (x, y) :: Memory.put m a b

/-- Addresses from `lo` on, strictly rising, within 32 bits, and no entry equal to `blank`. -/
def Memory.wfFrom (lo : Nat) : List Host.Cell → Bool
  | [] => true
  | (a, b) :: m => decide (lo ≤ a) && decide (a < 4294967296) && b != blank && Memory.wfFrom (a + 1) m

/-- The canonical form of memory. -/
def Memory.wf (m : List Host.Cell) : Bool := Memory.wfFrom 0 m

/-- Memory with several bytes replaced, in order. -/
def Memory.putAll : List Host.Cell → List (Word × Byte) → List Host.Cell
  | m, [] => m
  | m, (a, b) :: rest => Memory.putAll (Memory.put m a.toNat b) rest

/-- The byte at a byte address. -/
def State.byteAt (s : State) (a : Word) : Byte := Memory.get s.mem a.toNat

/-- The rights of a byte address at a privilege level; `none` outside `MemMap` (R80). -/
def rightsAt (c : Config) (priv : Bool) (a : Word) : Option Rights :=
  match c.memMap.find? (fun r => decide (r.first ≤ a.toNat) && decide (a.toNat ≤ r.last)) with
  | some r => some (if priv then r.priv else r.user)
  | none => none

/-- The current privilege (R450). -/
def State.privileged (s : State) : Bool := s.cpsr.mode.privileged

/-- The byte order of data accesses: CPSR.E, or the platform's where there is no E bit (R83). -/
def State.bigEndian (s : State) : Bool :=
  if s.cfg.haveV6 then s.cpsr.e else s.cfg.dataBigEndianAtReset

/-- The access sizes (R87). -/
inductive Width where
  | byte | half | word
deriving DecidableEq, Repr

/-- The number of bytes of an access (R87). -/
def Width.bytes : Width → Nat
  | .byte => 1 | .half => 2 | .word => 4

/-- The byte addresses of an access, each modulo 2^32 (R80). -/
def touched (addr : Word) : Width → List Word
  | .byte => [addr]
  | .half => [addr, addr + 1#32]
  | .word => [addr, addr + 1#32, addr + 2#32, addr + 3#32]

/-- Why a step does not complete: an exception to raise, or a refusal. -/
inductive Stop where
  | raise (e : Exc)
  | refuse (r : Refusal)
deriving DecidableEq, Repr

/-- What keeps one byte from being accessed at a privilege level (R81, R525): it is not mapped, or the right is not
granted. -/
def byteAbort (c : Config) (priv write : Bool) (a : Word) : Option AbortKind :=
  match rightsAt c priv a with
  | none => some .translation
  | some r => if (if write then r.write else r.read) then none else some .permission

/-- The lowest of the addresses `a` and `rest`. -/
def lowest (a : Word) (rest : List Word) : Word :=
  rest.foldl (fun m b => if b.toNat < m.toNat then b else m) a

/-- The abort a data access raises, if any (R81, R85, R522): alignment with the address of the access; else the
lowest address of a byte that faults, with kind translation if any byte is not mapped and permission otherwise. That
this address may be a byte without the right while the kind is translation is log 19. -/
def accessAbort (s : State) (priv write : Bool) (addr : Word) (w : Width) : Option Exc :=
  if addr.toNat % w.bytes ≠ 0 ∧ s.cfg.unalignedPolicy = .fault then some (.dataAbort .alignment addr write)
  else
    match (touched addr w).filter (fun a => (byteAbort s.cfg priv write a).isSome) with
    | [] => none
    | a :: rest =>
      some (.dataAbort
        (if (a :: rest).any (fun b => byteAbort s.cfg priv write b == some .translation) then .translation
         else .permission)
        (lowest a rest) write)

/-- A byte that is executable in `MemMap`, at either privilege level (R94, log 18). -/
def executable (c : Config) (a : Word) : Bool :=
  (match rightsAt c true a with | some r => r.exec | none => false) ||
  (match rightsAt c false a with | some r => r.exec | none => false)

/-- The value of the bytes at an address, in a byte order (R81). -/
def State.loadValue (s : State) (addr : Word) (w : Width) : Word :=
  let b0 := s.byteAt addr
  let b1 := s.byteAt (addr + 1#32)
  let b2 := s.byteAt (addr + 2#32)
  let b3 := s.byteAt (addr + 3#32)
  match w, s.bigEndian with
  | .byte, _ => b0.setWidth 32
  | .half, false => (b1 ++ b0).setWidth 32
  | .half, true => (b0 ++ b1).setWidth 32
  | .word, false => b3 ++ b2 ++ b1 ++ b0
  | .word, true => b0 ++ b1 ++ b2 ++ b3

/-- The bytes a store puts, with their addresses (R82). -/
def storeBytes (big : Bool) (addr : Word) (w : Width) (v : Word) : List (Word × Byte) :=
  let c0 := v.extractLsb' 0 8
  let c1 := v.extractLsb' 8 8
  let c2 := v.extractLsb' 16 8
  let c3 := v.extractLsb' 24 8
  match w, big with
  | .byte, _ => [(addr, c0)]
  | .half, false => [(addr, c0), (addr + 1#32, c1)]
  | .half, true => [(addr, c1), (addr + 1#32, c0)]
  | .word, false => [(addr, c0), (addr + 1#32, c1), (addr + 2#32, c2), (addr + 3#32, c3)]
  | .word, true => [(addr, c3), (addr + 1#32, c2), (addr + 2#32, c1), (addr + 3#32, c0)]

/-- The state after a store that is allowed (R82). -/
def State.storeValue (s : State) (addr : Word) (w : Width) (v : Word) : State :=
  { s with mem := Memory.putAll s.mem (storeBytes s.bigEndian addr w v) }

/-- `MemRead(addr, n)`, zero-extended to a word, with the rights of a privilege level (R81, R86). -/
def memRead (s : State) (priv : Bool) (addr : Word) (w : Width) : Except Stop Word :=
  match accessAbort s priv false addr w with
  | some e => .error (.raise e)
  | none => .ok (s.loadValue addr w)

/-- `MemWrite(addr, n, v)` (R82, R86); a store to an executable byte is refused (R94, log 18). -/
def memWrite (s : State) (priv : Bool) (addr : Word) (w : Width) (v : Word) : Except Stop State :=
  match accessAbort s priv true addr w with
  | some e => .error (.raise e)
  | none =>
    if (touched addr w).any (executable s.cfg) then .error (.refuse .storeToCode)
    else .ok (s.storeValue addr w v)

/-! ### The SPSR (R56) -/

/-- The SPSR of the current mode; User and System mode have none. -/
def State.spsr (s : State) : Option Word :=
  match s.cpsr.mode with
  | .usr => none
  | .fiq => some s.spsrFiq
  | .irq => some s.spsrIrq
  | .svc => some s.spsrSvc
  | .abt => some s.spsrAbt
  | .und => some s.spsrUnd
  | .sys => none

/-- Write the SPSR of the current mode; in User and System mode there is none to write. -/
def State.setSpsr (s : State) (v : Word) : State :=
  match s.cpsr.mode with
  | .usr => s
  | .fiq => { s with spsrFiq := v }
  | .irq => { s with spsrIrq := v }
  | .svc => { s with spsrSvc := v }
  | .abt => { s with spsrAbt := v }
  | .und => { s with spsrUnd := v }
  | .sys => s

/-! ### Writing the PC (R420) -/

/-- `BranchWritePC(a)` (R420): no change of state. -/
def branchWritePc (s : State) (a : Word) : Except Stop State :=
  if s.cpsr.t then .ok { s with pc := a &&& 0xFFFFFFFE#32 }
  else if a.extractLsb' 0 2 = 0#2 then .ok { s with pc := a }
  else .error (.refuse .misalignedBranchTarget)

/-- `BXWritePC(a)` (R420): bit 0 selects the state. Where the processor has no Thumb state, `T` cannot be
written (R50) and the target is an ARM address (log 21). -/
def bxWritePc (s : State) (a : Word) : Except Stop State :=
  if a.getLsbD 0 then
    if s.cfg.haveThumb then .ok { s with cpsr := { s.cpsr with t := true }, pc := a &&& 0xFFFFFFFE#32 }
    else if a.getLsbD 1 then .error (.refuse .misalignedBranchTarget)
    else .ok { s with pc := a &&& 0xFFFFFFFE#32 }
  else if a.getLsbD 1 then .error (.refuse .misalignedBranchTarget)
  else .ok { s with cpsr := { s.cpsr with t := false }, pc := a }

/-- `LinkValue()` (R420): the next address, bit 0 set in Thumb state. -/
def State.linkValue (s : State) (size : Word) : Word :=
  if s.cpsr.t then (s.pc + size) ||| 1#32 else s.pc + size

/-! ### Taking an exception (R526) -/

/-- The mode an exception enters (R525). -/
def Exc.mode : Exc → Mode
  | .undefinedInstruction _ _ => .und
  | .supervisorCall => .svc
  | .prefetchAbort _ => .abt
  | .dataAbort _ _ _ => .abt
  | .asyncAbort => .abt
  | .irq => .irq
  | .fiq => .fiq

/-- An exception's code, its vector offset (R525, R528). -/
def Exc.vector : Exc → Word
  | .undefinedInstruction _ _ => 0x04#32
  | .supervisorCall => 0x08#32
  | .prefetchAbort _ => 0x0C#32
  | .dataAbort _ _ _ => 0x10#32
  | .asyncAbort => 0x10#32
  | .irq => 0x18#32
  | .fiq => 0x1C#32

/-- `lr_offset(E, T)` (R526; log 30 for the asynchronous abort). -/
def Exc.lrOffset (e : Exc) (thumb : Bool) : Word :=
  match e with
  | .undefinedInstruction _ _ => if thumb then 2#32 else 4#32
  | .supervisorCall => if thumb then 2#32 else 4#32
  | .prefetchAbort _ => 4#32
  | .dataAbort _ _ _ => 8#32
  | .asyncAbort => 8#32
  | .irq => 4#32
  | .fiq => 4#32

/-- The exceptions that set A (R526). -/
def Exc.masksAbort : Exc → Bool
  | .undefinedInstruction _ _ => false
  | .supervisorCall => false
  | .prefetchAbort _ => true
  | .dataAbort _ _ _ => true
  | .asyncAbort => true
  | .irq => true
  | .fiq => true

/-- The exceptions that set F (R526). -/
def Exc.masksFiq : Exc → Bool
  | .undefinedInstruction _ _ => false
  | .supervisorCall => false
  | .prefetchAbort _ => false
  | .dataAbort _ _ _ => false
  | .asyncAbort => false
  | .irq => false
  | .fiq => true

/-- The CPSR on entry to an exception (R526); a field the processor lacks stays zero (R50, log 32). -/
def Cpsr.onEntry (p : Cpsr) (c : Config) (e : Exc) : Cpsr :=
  { p with
    mode := e.mode
    i := true
    f := p.f || e.masksFiq
    a := p.a || (c.haveV6 && e.masksAbort)
    it := 0#8
    j := false
    t := c.haveThumb && c.thumbExceptionEntry
    e := if c.haveV6 then c.dataBigEndianAtReset else p.e }

/-- `TakeException(E)` (R526): `s` is the state in which the instruction that raised it, or the next one for an
interrupt, had not begun; its pc is the preferred return address. -/
def takeException (e : Exc) (s : State) : State :=
  let s1 : State := { s with cpsr := s.cpsr.onEntry s.cfg e }
  let s2 := s1.setSpsr s.cpsr.toWord
  let s3 := s2.setReg 14#4 (s.pc + e.lrOffset s.cpsr.t)
  { s3 with pc := s.cfg.vectorBase + e.vector }

/-- `raise E(info)` at state `s` (R521): the fault state of R524, or the entry of R526. -/
def raiseExc (e : Exc) (s : State) : Host.Outcome State Fault Refusal :=
  match s.cfg.trapModel with
  | .fault => .fault (.exception e s.pc)
  | .classic => .next (takeException e s)

/-! ### Returning from an exception (R214) -/

/-- The CPSR that an SPSR restores, given its mode: all fields (R214), a field the processor lacks zero (R50),
the IT state zero in ARM state (R54, log 20). J is zero: a set J is refused first. -/
def Cpsr.restored (c : Config) (w : Word) (m : Mode) : Cpsr where
  n := w.getLsbD 31
  z := w.getLsbD 30
  c := w.getLsbD 29
  v := w.getLsbD 28
  q := c.haveV5E && w.getLsbD 27
  it := if c.haveT2 && c.haveThumb && w.getLsbD 5 then w.extractLsb' 10 6 ++ w.extractLsb' 25 2 else 0#8
  j := false
  ge := if c.haveV6 then w.extractLsb' 16 4 else 0#4
  e := c.haveV6 && w.getLsbD 9
  a := c.haveV6 && w.getLsbD 8
  i := w.getLsbD 7
  f := w.getLsbD 6
  t := c.haveThumb && w.getLsbD 5
  mode := m

/-- The exception return of R214: PC := LR - imm32, CPSR := SPSR of the current mode. -/
def exceptionReturn (s : State) (imm32 : Word) : Except Stop State :=
  match s.spsr with
  | none => .error (.refuse .noSpsr)
  | some w =>
    match Mode.ofBits (w.extractLsb' 0 5) with
    | none => .error (.refuse .badReturnState)
    | some m =>
      if w.getLsbD 24 then .error (.refuse .badReturnState)
      else
        let target := s.reg 14#4 - imm32
        let s' : State := { s with cpsr := Cpsr.restored s.cfg w m }
        if s'.cpsr.t then .ok { s' with pc := target &&& 0xFFFFFFFE#32 }
        else if target.extractLsb' 0 2 = 0#2 then .ok { s' with pc := target }
        else .error (.refuse .misalignedReturn)

/-! ### The frame of an instruction (R582 steps 6 to 10) -/

/-- Where an instruction may stand in an IT block (R420, R421). -/
inductive Place where
  | anywhere | lastOnly | never
deriving DecidableEq, Repr

/-- What becomes of the PC and the IT state after the effect (R582 steps 9, 10). -/
inductive Flow where
  /-- pc <- next, then ITAdvance. -/
  | sequential
  /-- The effect wrote the PC; then ITAdvance. -/
  | branch
  /-- The exception return: PC and IT state are restored, no ITAdvance. -/
  | ret
  /-- IT itself: pc <- next, no ITAdvance. -/
  | itself
deriving DecidableEq, Repr

/-- How an instruction is encoded, what it needs and where it may stand. -/
structure Form where
  enc : Enc
  /-- Its size in bytes (R40). -/
  size : Word
  /-- Its § feature, and `HaveT2` for a T32 row that needs it (R112). -/
  feature : Bool
  place : Place
  flow : Flow
  /-- A condition in the encoding other than the A32 field: B's T3 (R422). -/
  own : Option Cond
deriving DecidableEq, Repr

/-- The condition of a `cond` field or of IT[7:4]; 1111 is none (R131). -/
def condOfBits (b : BitVec 4) : Option Cond :=
  if b = 15#4 then none else some (condOf b.toNat)

/-- The instruction can execute in this state on this processor (R112, log 31). -/
def available (fm : Form) (s : State) : Bool :=
  fm.feature && (fm.enc.isThumb == s.cpsr.t)

/-- The refusal for a position in an IT block, if any (R420, R421); in ARM state there are no blocks. -/
def misplaced (fm : Form) (s : State) : Option Refusal :=
  if !fm.enc.isThumb || s.cpsr.it == 0#8 then none
  else
    match fm.place with
    | .anywhere => none
    | .lastOnly => if s.cpsr.it.extractLsb' 0 3 = 0#3 then none else some .branchInsideIt
    | .never => if fm.flow = .itself then some .itInsideIt else some .notAllowedInIt

/-- The condition the instruction executes under (R14, R121, R421, R422). -/
def condition (fm : Form) (s : State) : Option Cond :=
  match fm.own, fm.enc with
  | some c, _ => some c
  | none, .a32 c => some c
  | none, .thumb => if s.cpsr.it = 0#8 then some .al else condOfBits (s.cpsr.it.extractLsb' 4 4)

/-- `ITAdvance()` (R421). -/
def itAdvance (it : BitVec 8) : BitVec 8 :=
  if it.extractLsb' 0 3 = 0#3 then 0#8 else it.extractLsb' 5 3 ++ (it.extractLsb' 0 5 <<< 1)

/-- ITAdvance after a Thumb instruction; ARM state has no IT state (R54, R582 step 10). -/
def advanceIt (fm : Form) (s : State) : State :=
  if fm.enc.isThumb then { s with cpsr := { s.cpsr with it := itAdvance s.cpsr.it } } else s

/-- `pc <- next` (R40). -/
def nextPc (fm : Form) (s : State) : State := { s with pc := s.pc + fm.size }

/-- The end of an instruction that executed (R582 steps 9, 10). -/
def finish (fm : Form) (s : State) : State :=
  match fm.flow with
  | .sequential => advanceIt fm (nextPc fm s)
  | .branch => advanceIt fm s
  | .ret => s
  | .itself => nextPc fm s

/-- An instruction whose condition fails: only the PC and the IT state move (R14, R121). -/
def skip (fm : Form) (s : State) : State := advanceIt fm (nextPc fm s)

/-- Execute an instruction at `s`: availability, place, condition, then its effect (R582). -/
def perform (fm : Form) (s : State) (effect : Except Stop State) : Host.Outcome State Fault Refusal :=
  if available fm s then
    match misplaced fm s with
    | some r => .refused r
    | none =>
      match condition fm s with
      | none => .refused .unpredictableItCondition
      | some c =>
        if condHolds c s.cpsr then
          match effect with
          | .ok s' => .next (finish fm s')
          | .error (.raise e) => raiseExc e s
          | .error (.refuse r) => .refused r
        else .next (skip fm s)
  else .refused .notAvailable

/-- Operand refusals in order, then the effect (R582 step 9). -/
def checked : List (Bool × Refusal) → Except Stop State → Except Stop State
  | [], k => k
  | (b, r) :: rest, k => if b then .error (.refuse r) else checked rest k

/-- A sequential instruction of four bytes with an A32 or a T32 encoding; T32 needs `HaveT2` (R112). -/
def form4 (c : Config) (e : Enc) (feature : Bool) : Form where
  enc := e
  size := 4#32
  feature := feature && (!e.isThumb || c.haveT2)
  place := .anywhere
  flow := .sequential
  own := none

/-- The enclosing instruction set of an unconditional instruction: its A32 form is always executed (R116). -/
def encOf (thumb : Bool) : Enc := if thumb then .thumb else .a32 .al

end Sys2Proof.Machine
end

