-- ==== Sys2Proof/Machine/Operands.lean ====
section
/-! DEFINITION. Operand forms: immediates (R134, R135), shifted registers (R136 to R138), addressing forms (R471
to R475), and the operand refusals of R113 and R476. -/

namespace Sys2Proof.Machine

open Sys2Proof

/-! ### Values -/

/-- `ARMExpandImm_C(rotate : imm8, cin)` (R134). -/
def armExpandImm (rotate : BitVec 4) (imm8 : BitVec 8) (cin : Bool) : Word × Bool :=
  let v := if rotate = 0#4 then imm8.setWidth 32 else rorWord (imm8.setWidth 32) (2 * rotate.toNat)
  (v, if rotate = 0#4 then cin else v.msb)

/-- `ThumbExpandImm_C(imm12, cin)` (R135). -/
def thumbExpandImm (imm12 : BitVec 12) (cin : Bool) : Except Stop (Word × Bool) :=
  let imm8 := imm12.extractLsb' 0 8
  if imm12.extractLsb' 10 2 = 0#2 then
    if imm12.extractLsb' 8 2 = 0#2 then .ok (imm8.setWidth 32, cin)
    else if imm8 = 0#8 then .error (.refuse .unpredictableImmediate)
    else if imm12.extractLsb' 8 2 = 1#2 then .ok (0#8 ++ imm8 ++ 0#8 ++ imm8, cin)
    else if imm12.extractLsb' 8 2 = 2#2 then .ok (imm8 ++ 0#8 ++ imm8 ++ 0#8, cin)
    else .ok (imm8 ++ imm8 ++ imm8 ++ imm8, cin)
  else
    let v := rorWord ((1#1 ++ imm12.extractLsb' 0 7).setWidth 32) (imm12.extractLsb' 7 5).toNat
    .ok (v, v.msb)

/-- The amount of a constant shift (R138): an LSR or ASR field of 0 means 32. -/
def shiftAmount (ty : ShiftType) (imm5 : BitVec 5) : Nat :=
  match ty with
  | .lsl => imm5.toNat
  | .lsr => if imm5 = 0#5 then 32 else imm5.toNat
  | .asr => if imm5 = 0#5 then 32 else imm5.toNat
  | .ror => imm5.toNat

/-- A register shifted by a constant, with the carry out (R136, R138): `ror` with field 0 is RRX. -/
def shiftConst (v : Word) (ty : ShiftType) (imm5 : BitVec 5) (cin : Bool) : Word × Bool :=
  if ty = .ror ∧ imm5 = 0#5 then rrxC v cin else shiftC v ty (shiftAmount ty imm5) cin

/-- `Op2()` (R136): the value and the shifter's carry out. -/
def op2 (s : State) : Op2 → Except Stop (Word × Bool)
  | .immA r i => .ok (armExpandImm r i s.cpsr.c)
  | .immT i => thumbExpandImm i s.cpsr.c
  | .reg rm ty imm5 => .ok (shiftConst (s.reg rm) ty imm5 s.cpsr.c)
  | .regReg rm ty rs => .ok (shiftC (s.reg rm) ty ((s.reg rs).extractLsb' 0 8).toNat s.cpsr.c)

/-- `Align(v, 4)` (R13). -/
def align4 (v : Word) : Word := v &&& 0xFFFFFFFC#32

/-! ### Operand refusals (R113) -/

/-- R15 as a destination. -/
def destPc (r : Reg) : Bool × Refusal := (r == 15#4, .pcAsDestination)

/-- R15 as a source. -/
def srcPc (r : Reg) : Bool × Refusal := (r == 15#4, .pcOperand)

/-- R13 in Thumb state. -/
def noSp (e : Enc) (r : Reg) : Bool × Refusal := (e.isThumb && r == 13#4, .spOperand)

/-- Two registers that must differ. -/
def distinct (a b : Reg) : Bool × Refusal := (a == b, .sameRegister)

/-- Destinations and sources of an instruction that admits neither R15 nor, in Thumb state, R13 anywhere. -/
def plainChecks (e : Enc) (dests srcs : List Reg) : List (Bool × Refusal) :=
  dests.map destPc ++ srcs.map srcPc ++ (dests ++ srcs).map (noSp e)

/-- The registers `<Operand2>` reads. -/
def op2Regs : Op2 → List Reg
  | .immA _ _ => []
  | .immT _ => []
  | .reg rm _ _ => [rm]
  | .regReg rm _ rs => [rm, rs]

/-- `<Operand2>` is a register shifted by a register (R137). -/
def op2RegReg : Op2 → Bool
  | .regReg _ _ _ => true
  | .reg _ _ _ => false
  | .immA _ _ => false
  | .immT _ => false

/-- `<Operand2>` is an immediate or a register shifted by LSL #0 to LSL #3: the forms with which ADD and SUB may
name SP in Thumb state (R113 item 4). -/
def op2NearSp : Op2 → Bool
  | .immA _ _ => true
  | .immT _ => true
  | .reg _ ty imm5 => ty == .lsl && decide (imm5.toNat ≤ 3)
  | .regReg _ _ _ => false

/-- `<Operand2>` is an unshifted register (R113 item 4). -/
def op2Unshifted : Op2 → Bool
  | .reg _ ty imm5 => ty == .lsl && imm5 == 0#5
  | .immA _ _ => false
  | .immT _ => false
  | .regReg _ _ _ => false

/-- R15 as a source of a data-processing instruction: allowed in ARM state unless a register shifts by a
register (R113 items 2 and 3). -/
def dpSrcPc (e : Enc) (o : Op2) (r : Reg) : Bool × Refusal :=
  ((e.isThumb || op2RegReg o) && r == 15#4, .pcOperand)

/-- The refusals of a data-processing instruction; `spD`, `spN`, `spM` say where R13 is allowed in Thumb state. -/
def dpChecks (e : Enc) (rd rn : List Reg) (o : Op2) (spD spN spM : Bool) : List (Bool × Refusal) :=
  rd.map destPc ++ (rn ++ op2Regs o).map (dpSrcPc e o) ++
    (if spD then [] else rd.map (noSp e)) ++ (if spN then [] else rn.map (noSp e)) ++
    (if spM then [] else (op2Regs o).map (noSp e))

/-! ### Addressing (R471 to R475) -/

/-- Base plus or minus an offset, modulo 2^32. -/
def offsetBy (add : Bool) (base off : Word) : Word := if add then base + off else base - off

/-- The address accessed and, with write-back, the base register and its new value. -/
structure Address where
  addr : Word
  writeback : Option (Reg × Word)
deriving DecidableEq, Repr

/-- Offset, pre-indexed or post-indexed (R471 to R474). -/
def indexed (idx : Idx) (rn : Reg) (base moved : Word) : Address :=
  match idx with
  | .offset => ⟨moved, none⟩
  | .pre => ⟨moved, some (rn, moved)⟩
  | .post => ⟨base, some (rn, moved)⟩

/-- The base register's value; R15 is aligned to 4 (R475). -/
def State.base (s : State) (rn : Reg) : Word := if rn = 15#4 then align4 s.pcRead else s.reg rn

/-- The addressing forms (R471 to R475). -/
def address (s : State) : MemForm → Address
  | .aImm idx add rn i => indexed idx rn (s.base rn) (offsetBy add (s.base rn) (i.setWidth 32))
  | .aReg idx add rn rm ty imm5 =>
    indexed idx rn (s.base rn) (offsetBy add (s.base rn) (shiftConst (s.reg rm) ty imm5 s.cpsr.c).1)
  | .aImm8 idx add rn i => indexed idx rn (s.base rn) (offsetBy add (s.base rn) (i.setWidth 32))
  | .aReg0 idx add rn rm => indexed idx rn (s.base rn) (offsetBy add (s.base rn) (s.reg rm))
  | .tImm12 rn i => ⟨s.reg rn + i.setWidth 32, none⟩
  | .tImm8 idx add rn i => indexed idx rn (s.reg rn) (offsetBy add (s.reg rn) (i.setWidth 32))
  | .tReg rn rm imm2 => ⟨s.reg rn + (s.reg rm <<< imm2.toNat), none⟩
  | .tLit add i => ⟨offsetBy add (align4 s.pcRead) (i.setWidth 32), none⟩

/-- The addressing forms of the `T` instructions: post-indexed in A32, immediate offset in T32 (R488). -/
def addressT (s : State) : MemFormT → Address
  | .aImm add rn i => indexed .post rn (s.reg rn) (offsetBy add (s.reg rn) (i.setWidth 32))
  | .aReg add rn rm ty imm5 =>
    indexed .post rn (s.reg rn) (offsetBy add (s.reg rn) (shiftConst (s.reg rm) ty imm5 s.cpsr.c).1)
  | .aImm8 add rn i => indexed .post rn (s.reg rn) (offsetBy add (s.reg rn) (i.setWidth 32))
  | .aReg0 add rn rm => indexed .post rn (s.reg rn) (offsetBy add (s.reg rn) (s.reg rm))
  | .tImm8 rn i => ⟨s.reg rn + i.setWidth 32, none⟩

/-- Write-back or post-indexing. -/
def idxWrites : Idx → Bool
  | .offset => false
  | .pre => true
  | .post => true

/-- The base register, index register and write-back of an addressing form; the literal form's base is R15. -/
def memParts : MemForm → Option Reg × Option Reg × Bool
  | .aImm idx _ rn _ => (some rn, none, idxWrites idx)
  | .aReg idx _ rn rm _ _ => (some rn, some rm, idxWrites idx)
  | .aImm8 idx _ rn _ => (some rn, none, idxWrites idx)
  | .aReg0 idx _ rn rm => (some rn, some rm, idxWrites idx)
  | .tImm12 rn _ => (some rn, none, false)
  | .tImm8 idx _ rn _ => (some rn, none, idxWrites idx)
  | .tReg rn rm _ => (some rn, some rm, false)
  | .tLit _ _ => (none, none, false)

/-- See `memParts`. -/
def memPartsT : MemFormT → Option Reg × Option Reg × Bool
  | .aImm _ rn _ => (some rn, none, true)
  | .aReg _ rn rm _ _ => (some rn, some rm, true)
  | .aImm8 _ rn _ => (some rn, none, true)
  | .aReg0 _ rn rm => (some rn, some rm, true)
  | .tImm8 rn _ => (some rn, none, false)

/-- The refusals of a load or store (R113, R476). R15 as base: only a load, in ARM state, without write-back
(log 17). R13 as Rd in Thumb state: only `LDR` and `STR` (`spD`). -/
def memChecks (c : Config) (e : Enc) (load spD : Bool) (rd : Reg) (p : Option Reg × Option Reg × Bool) :
    List (Bool × Refusal) :=
  [if load then destPc rd else srcPc rd, (e.isThumb && !spD && rd == 13#4, .spOperand)] ++
  (match p.1 with
   | some rn => [(rn == 15#4 && p.2.2, .pcAsDestination), (rn == 15#4 && (!load || e.isThumb), .pcOperand),
       (p.2.2 && rn == rd, .baseIsDestination)]
   | none => []) ++
  (match p.2.1 with
   | some rm => [srcPc rm, noSp e rm]
   | none => []) ++
  (match p.1, p.2.1 with
   | some rn, some rm => [(p.2.2 && rn == rm && !c.haveV6, .baseIsIndex)]
   | _, _ => [])

/-- Write the base register back (R470). -/
def State.writeBase (s : State) : Option (Reg × Word) → State
  | some (rn, v) => s.setReg rn v
  | none => s

end Sys2Proof.Machine
end

