-- ==== Sys2Proof/Machine/DataProcessing.lean ====
section
/-! DEFINITION. Data processing with `<Operand2>`: add, subtract, address, compare, logical, move, shifts, RRX and
the 16-bit immediates (spec 40_add_subtract, 43_move_shift_compare_logical). -/

namespace Sys2Proof.Machine

open Sys2Proof

/-- The state with new flags when `sf`. -/
def State.withFlags (s : State) (sf : Bool) (p : Cpsr) : State := if sf then { s with cpsr := p } else s

/-- The shape of the arithmetic group (R200): `fn` gives AddWithCarry's three results from Rn, Operand2 and C. -/
def arith (e : Enc) (sf : Bool) (rd rn : Reg) (o : Op2) (near : Bool) (s : State)
    (fn : Word → Word → Bool → Word × Bool × Bool) : Host.Outcome State Fault Refusal :=
  perform (form4 s.cfg e true) s (checked (dpChecks e [rd] [rn] o near near false)
    (match op2 s o with
     | .error x => .error x
     | .ok v =>
       let r := fn (s.reg rn) v.1 s.cpsr.c
       .ok ((s.setReg rd r.1).withFlags sf (s.cpsr.setNZCV r.1 r.2.1 r.2.2))))

/-- The shape of the compares (R353, R354): flags only. -/
def arithTest (e : Enc) (rn : Reg) (o : Op2) (s : State) (fn : Word → Word → Bool → Word × Bool × Bool)
    : Host.Outcome State Fault Refusal :=
  perform (form4 s.cfg e true) s (checked (dpChecks e [] [rn] o false true false)
    (match op2 s o with
     | .error x => .error x
     | .ok v =>
       let r := fn (s.reg rn) v.1 s.cpsr.c
       .ok (s.withFlags true (s.cpsr.setNZCV r.1 r.2.1 r.2.2))))

/-- The shape of the logical group (R340): `fn` gives the result from Rn and Operand2. -/
def logical (feature : Bool) (e : Enc) (sf : Bool) (rd rn : Reg) (o : Op2) (s : State) (fn : Word → Word → Word)
    : Host.Outcome State Fault Refusal :=
  perform (form4 s.cfg e feature) s (checked (dpChecks e [rd] [rn] o false false false)
    (match op2 s o with
     | .error x => .error x
     | .ok v =>
       let r := fn (s.reg rn) v.1
       .ok ((s.setReg rd r).withFlags sf (s.cpsr.setNZC r v.2))))

/-- The shape of the tests (R355, R356). -/
def logicalTest (e : Enc) (rn : Reg) (o : Op2) (s : State) (fn : Word → Word → Word) : Host.Outcome State Fault Refusal :=
  perform (form4 s.cfg e true) s (checked (dpChecks e [] [rn] o false false false)
    (match op2 s o with
     | .error x => .error x
     | .ok v => .ok (s.withFlags true (s.cpsr.setNZC (fn (s.reg rn) v.1) v.2))))

/-- The shape of the moves (R341, R342); `sp` says whether R13 is allowed in Thumb state. -/
def move (e : Enc) (sf : Bool) (rd : Reg) (o : Op2) (sp : Bool) (s : State) (fn : Word → Word) : Host.Outcome State Fault Refusal :=
  perform (form4 s.cfg e true) s (checked (dpChecks e [rd] [] o sp false sp)
    (match op2 s o with
     | .error x => .error x
     | .ok v => .ok ((s.setReg rd (fn v.1)).withFlags sf (s.cpsr.setNZC (fn v.1) v.2))))

/-- ADD (R201). -/
def execAdd (e : Enc) (sf : Bool) (rd rn : Reg) (o : Op2) (s : State) : Host.Outcome State Fault Refusal :=
  arith e sf rd rn o (op2NearSp o) s (fun a b _ => addWithCarry a b false)

/-- ADC (R202). -/
def execAdc (e : Enc) (sf : Bool) (rd rn : Reg) (o : Op2) (s : State) : Host.Outcome State Fault Refusal :=
  arith e sf rd rn o false s (fun a b c => addWithCarry a b c)

/-- SBC (R208). -/
def execSbc (e : Enc) (sf : Bool) (rd rn : Reg) (o : Op2) (s : State) : Host.Outcome State Fault Refusal :=
  arith e sf rd rn o false s (fun a b c => addWithCarry a (~~~b) c)

/-- RSB (R210). -/
def execRsb (e : Enc) (sf : Bool) (rd rn : Reg) (o : Op2) (s : State) : Host.Outcome State Fault Refusal :=
  arith e sf rd rn o false s (fun a b _ => addWithCarry (~~~a) b true)

/-- RSC, ARM state only (R211). -/
def execRsc (c : Cond) (sf : Bool) (rd rn : Reg) (o : Op2) (s : State) : Host.Outcome State Fault Refusal :=
  arith (.a32 c) sf rd rn o false s (fun a b cin => addWithCarry (~~~a) b cin)

/-- SUB (R207). In ARM state the words of SUBS PC, LR, #imm are an exception return (R214, R140). -/
def execSub (e : Enc) (sf : Bool) (rd rn : Reg) (o : Op2) (s : State) : Host.Outcome State Fault Refusal :=
  match e, sf, o with
  | .a32 c, true, .immA r i =>
    if rd = 15#4 ∧ rn = 14#4 then
      perform { form4 s.cfg e true with flow := .ret } s (exceptionReturn s (armExpandImm r i s.cpsr.c).1)
    else arith (.a32 c) true rd rn (.immA r i) true s (fun a b _ => addWithCarry a (~~~b) true)
  | e, sf, o => arith e sf rd rn o (op2NearSp o) s (fun a b _ => addWithCarry a (~~~b) true)

/-- SUBS PC, LR, #imm8 in Thumb state: outside an IT block or last in it (R214, log 25). -/
def execSubsPcLr (imm8 : BitVec 8) (s : State) : Host.Outcome State Fault Refusal :=
  perform { form4 s.cfg .thumb true with place := .lastOnly, flow := .ret } s (exceptionReturn s (imm8.setWidth 32))

/-- CMP (R353). -/
def execCmp (e : Enc) (rn : Reg) (o : Op2) (s : State) : Host.Outcome State Fault Refusal :=
  arithTest e rn o s (fun a b _ => addWithCarry a (~~~b) true)

/-- CMN (R354). -/
def execCmn (e : Enc) (rn : Reg) (o : Op2) (s : State) : Host.Outcome State Fault Refusal :=
  arithTest e rn o s (fun a b _ => addWithCarry a b false)

/-- TST (R355). -/
def execTst (e : Enc) (rn : Reg) (o : Op2) (s : State) : Host.Outcome State Fault Refusal :=
  logicalTest e rn o s (fun a b => a &&& b)

/-- TEQ (R356). -/
def execTeq (e : Enc) (rn : Reg) (o : Op2) (s : State) : Host.Outcome State Fault Refusal :=
  logicalTest e rn o s (fun a b => a ^^^ b)

/-- AND (R357). -/
def execAnd (e : Enc) (sf : Bool) (rd rn : Reg) (o : Op2) (s : State) : Host.Outcome State Fault Refusal :=
  logical true e sf rd rn o s (fun a b => a &&& b)

/-- EOR (R358). -/
def execEor (e : Enc) (sf : Bool) (rd rn : Reg) (o : Op2) (s : State) : Host.Outcome State Fault Refusal :=
  logical true e sf rd rn o s (fun a b => a ^^^ b)

/-- ORR (R359). -/
def execOrr (e : Enc) (sf : Bool) (rd rn : Reg) (o : Op2) (s : State) : Host.Outcome State Fault Refusal :=
  logical true e sf rd rn o s (fun a b => a ||| b)

/-- BIC (R361). -/
def execBic (e : Enc) (sf : Bool) (rd rn : Reg) (o : Op2) (s : State) : Host.Outcome State Fault Refusal :=
  logical true e sf rd rn o s (fun a b => a &&& ~~~b)

/-- ORN, Thumb state only (R360). -/
def execOrn (sf : Bool) (rd rn : Reg) (o : Op2) (s : State) : Host.Outcome State Fault Refusal :=
  logical s.cfg.haveT2 .thumb sf rd rn o s (fun a b => a ||| ~~~b)

/-- MOV (R341); SP is allowed in Thumb state when the operand is an unshifted register (R113). -/
def execMov (e : Enc) (sf : Bool) (rd : Reg) (o : Op2) (s : State) : Host.Outcome State Fault Refusal :=
  move e sf rd o (op2Unshifted o) s (fun v => v)

/-- MVN (R342). -/
def execMvn (e : Enc) (sf : Bool) (rd : Reg) (o : Op2) (s : State) : Host.Outcome State Fault Refusal :=
  move e sf rd o false s (fun v => ~~~v)

/-- RRX (R351): MOV with the RRX form of Operand2. -/
def execRrx (e : Enc) (sf : Bool) (rd rm : Reg) (s : State) : Host.Outcome State Fault Refusal :=
  move e sf rd (.reg rm .ror 0#5) false s (fun v => v)

/-- The T32 shifts by register (R347 to R350): the amount is the low byte of Rs. -/
def shiftReg (ty : ShiftType) (sf : Bool) (rd rm rs : Reg) (s : State) : Host.Outcome State Fault Refusal :=
  perform (form4 s.cfg .thumb true) s (checked (plainChecks .thumb [rd] [rm, rs])
    (let r := shiftC (s.reg rm) ty ((s.reg rs).extractLsb' 0 8).toNat s.cpsr.c
     .ok ((s.setReg rd r.1).withFlags sf (s.cpsr.setNZC r.1 r.2))))

/-- LSL by register, Thumb state (R348). -/
def execLsl (sf : Bool) (rd rm rs : Reg) (s : State) : Host.Outcome State Fault Refusal :=
  shiftReg .lsl sf rd rm rs s

/-- LSR by register, Thumb state (R349). -/
def execLsr (sf : Bool) (rd rm rs : Reg) (s : State) : Host.Outcome State Fault Refusal :=
  shiftReg .lsr sf rd rm rs s

/-- ASR by register, Thumb state (R347). -/
def execAsr (sf : Bool) (rd rm rs : Reg) (s : State) : Host.Outcome State Fault Refusal :=
  shiftReg .asr sf rd rm rs s

/-- ROR by register, Thumb state (R350). -/
def execRor (sf : Bool) (rd rm rs : Reg) (s : State) : Host.Outcome State Fault Refusal :=
  shiftReg .ror sf rd rm rs s

/-- A sequential four-byte instruction that admits neither R15 nor, in Thumb state, R13 in any position, and whose
effect is `f` (R113). -/
def plainOp (feature : Bool) (e : Enc) (dests srcs : List Reg) (s : State) (f : State → State) : Host.Outcome State Fault Refusal :=
  perform (form4 s.cfg e feature) s (checked (plainChecks e dests srcs) (.ok (f s)))

/-- MOVW (R344). -/
def execMovw (e : Enc) (rd : Reg) (imm16 : BitVec 16) (s : State) : Host.Outcome State Fault Refusal :=
  plainOp s.cfg.haveT2 e [rd] [] s (fun s => s.setReg rd (imm16.setWidth 32))

/-- MOVT (R343). -/
def execMovt (e : Enc) (rd : Reg) (imm16 : BitVec 16) (s : State) : Host.Outcome State Fault Refusal :=
  plainOp s.cfg.haveT2 e [rd] [] s (fun s => s.setReg rd (imm16 ++ (s.reg rd).extractLsb' 0 16))

/-- Wide ADD (R203): SP is allowed in both positions (R113). -/
def execAddw (rd rn : Reg) (imm12 : BitVec 12) (s : State) : Host.Outcome State Fault Refusal :=
  perform (form4 s.cfg .thumb s.cfg.haveT2) s (checked [destPc rd, srcPc rn]
    (.ok (s.setReg rd (s.reg rn + imm12.setWidth 32))))

/-- Wide SUB (R209): no flag changes (90_conflicts C1). -/
def execSubw (rd rn : Reg) (imm12 : BitVec 12) (s : State) : Host.Outcome State Fault Refusal :=
  perform (form4 s.cfg .thumb s.cfg.haveT2) s (checked [destPc rd, srcPc rn]
    (.ok (s.setReg rd (s.reg rn - imm12.setWidth 32))))

/-- ADR in Thumb state (R206): the wide ADD or SUB whose Rn is the PC (R113 item 3, R140), so Rd may be SP as theirs
may (R113 item 4, log 16). -/
def execAdr (add : Bool) (rd : Reg) (imm12 : BitVec 12) (s : State) : Host.Outcome State Fault Refusal :=
  perform (form4 s.cfg .thumb s.cfg.haveT2) s (checked [destPc rd]
    (.ok (s.setReg rd (offsetBy add (align4 s.pcRead) (imm12.setWidth 32)))))

end Sys2Proof.Machine
end

