-- ==== Sys2Proof/Machine/BitField.lean ====
section
/-! DEFINITION. Bit fields, packing, extension, reversal, selection and CLZ (spec
44_bitfield_pack_extend_reverse_select, R352). -/

namespace Sys2Proof.Machine

open Sys2Proof

/-- A field of `width` ones from bit `lsb` up. -/
def fieldMask (lsb width : Nat) : Word := BitVec.ofNat 32 ((2 ^ width - 1) * 2 ^ lsb)

/-- The effect on a bit field from lsb to msb; `msb < lsb` is refused (R380). -/
def bfOp (e : Enc) (rd : Reg) (srcs : List Reg) (lsb msb : BitVec 5) (s : State) (ins : State → Word)
    : Host.Outcome State Fault Refusal :=
  perform (form4 s.cfg e s.cfg.haveT2) s (checked
    (plainChecks e [rd] srcs ++ [(decide (msb.toNat < lsb.toNat), .unpredictableBitField)])
    (let mask := fieldMask lsb.toNat (msb.toNat + 1 - lsb.toNat)
     .ok (s.setReg rd ((s.reg rd &&& ~~~mask) ||| ((ins s <<< lsb.toNat) &&& mask)))))

/-- BFC (R381). -/
def execBfc (e : Enc) (rd : Reg) (lsb msb : BitVec 5) (s : State) : Host.Outcome State Fault Refusal :=
  bfOp e rd [] lsb msb s (fun _ => 0#32)

/-- BFI (R382). -/
def execBfi (e : Enc) (rd rn : Reg) (lsb msb : BitVec 5) (s : State) : Host.Outcome State Fault Refusal :=
  bfOp e rd [rn] lsb msb s (fun s => s.reg rn)

/-- The shape of the extracts; a field past bit 31 is refused (R380). -/
def bfxOp (e : Enc) (rd rn : Reg) (lsb widthm1 : BitVec 5) (s : State) (v : Word) : Host.Outcome State Fault Refusal :=
  perform (form4 s.cfg e s.cfg.haveT2) s (checked
    (plainChecks e [rd] [rn] ++ [(decide (31 < lsb.toNat + widthm1.toNat), .unpredictableBitField)])
    (.ok (s.setReg rd v)))

/-- SBFX (R383). -/
def execSbfx (e : Enc) (rd rn : Reg) (lsb widthm1 : BitVec 5) (s : State) : Host.Outcome State Fault Refusal :=
  bfxOp e rd rn lsb widthm1 s (((s.reg rn).extractLsb' lsb.toNat (widthm1.toNat + 1)).signExtend 32)

/-- UBFX (R384). -/
def execUbfx (e : Enc) (rd rn : Reg) (lsb widthm1 : BitVec 5) (s : State) : Host.Outcome State Fault Refusal :=
  bfxOp e rd rn lsb widthm1 s (((s.reg rn).extractLsb' lsb.toNat (widthm1.toNat + 1)).setWidth 32)

/-- PKHBT (R385). -/
def execPkhbt (e : Enc) (rd rn rm : Reg) (imm5 : BitVec 5) (s : State) : Host.Outcome State Fault Refusal :=
  plainOp s.cfg.haveV6 e [rd] [rn, rm] s (fun s =>
    s.setReg rd ((shiftConst (s.reg rm) .lsl imm5 s.cpsr.c).1.extractLsb' 16 16 ++ (s.reg rn).extractLsb' 0 16))

/-- PKHTB (R386): an amount field of 0 means 32. -/
def execPkhtb (e : Enc) (rd rn rm : Reg) (imm5 : BitVec 5) (s : State) : Host.Outcome State Fault Refusal :=
  plainOp s.cfg.haveV6 e [rd] [rn, rm] s (fun s =>
    s.setReg rd ((s.reg rn).extractLsb' 16 16 ++ (shiftConst (s.reg rm) .asr imm5 s.cpsr.c).1.extractLsb' 0 16))

/-- `ROR(x[Rm], 8 * sh)` (R380). -/
def rotated (s : State) (rm : Reg) (rot : BitVec 2) : Word :=
  if rot = 0#2 then s.reg rm else rorWord (s.reg rm) (8 * rot.toNat)

/-- The extension of SXTH (R387). -/
def sxthOf (r : Word) : Word := (r.extractLsb' 0 16).signExtend 32

/-- The extension of SXTB16 (R388). -/
def sxtb16Of (r : Word) : Word := (r.extractLsb' 16 8).signExtend 16 ++ (r.extractLsb' 0 8).signExtend 16

/-- The extension of SXTB (R389). -/
def sxtbOf (r : Word) : Word := (r.extractLsb' 0 8).signExtend 32

/-- The extension of UXTH (R390). -/
def uxthOf (r : Word) : Word := (r.extractLsb' 0 16).setWidth 32

/-- The extension of UXTB16 (R391). -/
def uxtb16Of (r : Word) : Word := (r.extractLsb' 16 8).setWidth 16 ++ (r.extractLsb' 0 8).setWidth 16

/-- The extension of UXTB (R392). -/
def uxtbOf (r : Word) : Word := (r.extractLsb' 0 8).setWidth 32

/-- Two halfwords added without a carry between them (R394, R397). -/
def addHalves (a b : Word) : Word :=
  (a.extractLsb' 16 16 + b.extractLsb' 16 16) ++ (a.extractLsb' 0 16 + b.extractLsb' 0 16)

/-- SXTH (R387). -/
def execSxth (e : Enc) (rd rm : Reg) (rot : BitVec 2) (s : State) : Host.Outcome State Fault Refusal :=
  plainOp s.cfg.haveV6 e [rd] [rm] s (fun s => s.setReg rd (sxthOf (rotated s rm rot)))

/-- SXTB16 (R388). -/
def execSxtb16 (e : Enc) (rd rm : Reg) (rot : BitVec 2) (s : State) : Host.Outcome State Fault Refusal :=
  plainOp s.cfg.haveV6 e [rd] [rm] s (fun s => s.setReg rd (sxtb16Of (rotated s rm rot)))

/-- SXTB (R389). -/
def execSxtb (e : Enc) (rd rm : Reg) (rot : BitVec 2) (s : State) : Host.Outcome State Fault Refusal :=
  plainOp s.cfg.haveV6 e [rd] [rm] s (fun s => s.setReg rd (sxtbOf (rotated s rm rot)))

/-- UXTH (R390). -/
def execUxth (e : Enc) (rd rm : Reg) (rot : BitVec 2) (s : State) : Host.Outcome State Fault Refusal :=
  plainOp s.cfg.haveV6 e [rd] [rm] s (fun s => s.setReg rd (uxthOf (rotated s rm rot)))

/-- UXTB16 (R391). -/
def execUxtb16 (e : Enc) (rd rm : Reg) (rot : BitVec 2) (s : State) : Host.Outcome State Fault Refusal :=
  plainOp s.cfg.haveV6 e [rd] [rm] s (fun s => s.setReg rd (uxtb16Of (rotated s rm rot)))

/-- UXTB (R392). -/
def execUxtb (e : Enc) (rd rm : Reg) (rot : BitVec 2) (s : State) : Host.Outcome State Fault Refusal :=
  plainOp s.cfg.haveV6 e [rd] [rm] s (fun s => s.setReg rd (uxtbOf (rotated s rm rot)))

/-- SXTAH (R393). -/
def execSxtah (e : Enc) (rd rn rm : Reg) (rot : BitVec 2) (s : State) : Host.Outcome State Fault Refusal :=
  plainOp s.cfg.haveV6 e [rd] [rn, rm] s (fun s =>
    s.setReg rd (s.reg rn + sxthOf (rotated s rm rot)))

/-- SXTAB16 (R394). -/
def execSxtab16 (e : Enc) (rd rn rm : Reg) (rot : BitVec 2) (s : State) : Host.Outcome State Fault Refusal :=
  plainOp s.cfg.haveV6 e [rd] [rn, rm] s (fun s =>
    s.setReg rd (addHalves (s.reg rn) (sxtb16Of (rotated s rm rot))))

/-- SXTAB (R395). -/
def execSxtab (e : Enc) (rd rn rm : Reg) (rot : BitVec 2) (s : State) : Host.Outcome State Fault Refusal :=
  plainOp s.cfg.haveV6 e [rd] [rn, rm] s (fun s =>
    s.setReg rd (s.reg rn + sxtbOf (rotated s rm rot)))

/-- UXTAH (R396). -/
def execUxtah (e : Enc) (rd rn rm : Reg) (rot : BitVec 2) (s : State) : Host.Outcome State Fault Refusal :=
  plainOp s.cfg.haveV6 e [rd] [rn, rm] s (fun s =>
    s.setReg rd (s.reg rn + uxthOf (rotated s rm rot)))

/-- UXTAB16 (R397). -/
def execUxtab16 (e : Enc) (rd rn rm : Reg) (rot : BitVec 2) (s : State) : Host.Outcome State Fault Refusal :=
  plainOp s.cfg.haveV6 e [rd] [rn, rm] s (fun s =>
    s.setReg rd (addHalves (s.reg rn) (uxtb16Of (rotated s rm rot))))

/-- UXTAB (R398). -/
def execUxtab (e : Enc) (rd rn rm : Reg) (rot : BitVec 2) (s : State) : Host.Outcome State Fault Refusal :=
  plainOp s.cfg.haveV6 e [rd] [rn, rm] s (fun s =>
    s.setReg rd (s.reg rn + uxtbOf (rotated s rm rot)))

/-- Byte i of a word. -/
def byteOf (w : Word) (i : Nat) : Byte := w.extractLsb' (8 * i) 8

/-- The number of leading zeros (R352): 32 for zero, else 31 less the index of the highest set bit. -/
def leadingZeros (w : Word) : Nat := if w.toNat = 0 then 32 else 31 - Nat.log2 w.toNat

/-- CLZ (R352). -/
def execClz (e : Enc) (rd rm : Reg) (s : State) : Host.Outcome State Fault Refusal :=
  plainOp s.cfg.haveV5 e [rd] [rm] s (fun s => s.setReg rd (BitVec.ofNat 32 (leadingZeros (s.reg rm))))

/-- RBIT (R399). -/
def execRbit (e : Enc) (rd rm : Reg) (s : State) : Host.Outcome State Fault Refusal :=
  plainOp s.cfg.haveT2 e [rd] [rm] s (fun s => s.setReg rd (s.reg rm).reverse)

/-- REV (R400). -/
def execRev (e : Enc) (rd rm : Reg) (s : State) : Host.Outcome State Fault Refusal :=
  plainOp s.cfg.haveV6 e [rd] [rm] s (fun s =>
    let w := s.reg rm
    s.setReg rd (byteOf w 0 ++ byteOf w 1 ++ byteOf w 2 ++ byteOf w 3))

/-- REV16 (R401). -/
def execRev16 (e : Enc) (rd rm : Reg) (s : State) : Host.Outcome State Fault Refusal :=
  plainOp s.cfg.haveV6 e [rd] [rm] s (fun s =>
    let w := s.reg rm
    s.setReg rd (byteOf w 2 ++ byteOf w 3 ++ byteOf w 0 ++ byteOf w 1))

/-- REVSH (R402). -/
def execRevsh (e : Enc) (rd rm : Reg) (s : State) : Host.Outcome State Fault Refusal :=
  plainOp s.cfg.haveV6 e [rd] [rm] s (fun s =>
    let w := s.reg rm
    s.setReg rd ((byteOf w 0 ++ byteOf w 1).signExtend 32))

/-- SEL (R403): GE chooses each byte. -/
def execSel (e : Enc) (rd rn rm : Reg) (s : State) : Host.Outcome State Fault Refusal :=
  plainOp s.cfg.haveV6 e [rd] [rn, rm] s (fun s =>
    let pick := fun i : Nat => if s.cpsr.ge.getLsbD i then byteOf (s.reg rn) i else byteOf (s.reg rm) i
    s.setReg rd (pick 3 ++ pick 2 ++ pick 1 ++ pick 0))

end Sys2Proof.Machine
end

