-- ==== Sys2Proof/Machine/Branch.lean ====
section
/-! DEFINITION. If-Then and branches (spec 45_branch_it). -/

namespace Sys2Proof.Machine

open Sys2Proof

/-- IT (R421): writes the IT state; the conditions come from it afterwards. -/
def execIt (firstcond mask : BitVec 4) (s : State) : Host.Outcome State Fault Refusal :=
  perform { enc := .thumb, size := 2#32, feature := s.cfg.haveT2, place := .never, flow := .itself, own := none } s
    (checked [(firstcond == 15#4, .unpredictableItCondition),
        (firstcond == 14#4 && !(mask == 1#4 || mask == 2#4 || mask == 4#4 || mask == 8#4), .itAlWithElse)]
      (.ok { s with cpsr := { s.cpsr with it := firstcond ++ mask } }))

/-- A branch of four bytes, allowed only last in an IT block (R420); `needT2` says whether its T32 row needs
`HaveT2` (R112 item 3). -/
def branchForm (c : Config) (e : Enc) (feature needT2 : Bool) : Form :=
  { enc := e, size := 4#32, feature := feature && (!e.isThumb || !needT2 || c.haveT2), place := .lastOnly,
    flow := .branch, own := none }

/-- The A32 branch offset: imm24 : 00, sign-extended (R422). -/
def offsetA (imm24 : BitVec 24) : Word := (imm24 ++ 0#2).signExtend 32

/-- I1 and I2: NOT (J EOR S) (R422). -/
def iBit (j s : Bool) : BitVec 1 := BitVec.ofBool (!(j != s))

/-- The T4 branch offset: S : I1 : I2 : imm10 : imm11 : 0 (R422). -/
def offsetT4 (sg j1 j2 : Bool) (imm10 : BitVec 10) (imm11 : BitVec 11) : Word :=
  (BitVec.ofBool sg ++ iBit j1 sg ++ iBit j2 sg ++ imm10 ++ imm11 ++ 0#1).signExtend 32

/-- The T3 branch offset: S : J2 : J1 : imm6 : imm11 : 0 (R422). -/
def offsetT3 (sg j1 j2 : Bool) (imm6 : BitVec 6) (imm11 : BitVec 11) : Word :=
  (BitVec.ofBool sg ++ BitVec.ofBool j2 ++ BitVec.ofBool j1 ++ imm6 ++ imm11 ++ 0#1).signExtend 32

/-- B (R422). -/
def execB (t : BTarget) (s : State) : Host.Outcome State Fault Refusal :=
  match t with
  | .a32 c imm24 => perform (branchForm s.cfg (.a32 c) true true) s (branchWritePc s (s.pc + 8#32 + offsetA imm24))
  | .t3 c sg j1 j2 imm6 imm11 =>
    perform { branchForm s.cfg .thumb true true with place := .never, own := some c } s
      (branchWritePc s (s.pc + 4#32 + offsetT3 sg j1 j2 imm6 imm11))
  | .t4 sg j1 j2 imm10 imm11 =>
    perform (branchForm s.cfg .thumb true true) s (branchWritePc s (s.pc + 4#32 + offsetT4 sg j1 j2 imm10 imm11))

/-- BL (R423). -/
def execBl (t : BlTarget) (s : State) : Host.Outcome State Fault Refusal :=
  match t with
  | .a32 c imm24 =>
    perform (branchForm s.cfg (.a32 c) true false) s
      (branchWritePc (s.setReg 14#4 (s.linkValue 4#32)) (s.pc + 8#32 + offsetA imm24))
  | .t32 sg j1 j2 imm10 imm11 =>
    perform (branchForm s.cfg .thumb true false) s
      (branchWritePc (s.setReg 14#4 (s.linkValue 4#32)) (s.pc + 4#32 + offsetT4 sg j1 j2 imm10 imm11))

/-- BLX to a label (R425): always changes the instruction set. -/
def execBlxLabel (t : BlxTarget) (s : State) : Host.Outcome State Fault Refusal :=
  match t with
  | .a32 h imm24 =>
    perform (branchForm s.cfg (.a32 .al) (s.cfg.haveV5 && s.cfg.haveThumb) false) s
      (let s' := s.setReg 14#4 (s.linkValue 4#32)
       .ok { s' with
         cpsr := { s'.cpsr with t := true }
         pc := s.pc + 8#32 + (imm24 ++ BitVec.ofBool h ++ 0#1).signExtend 32 })
  | .t32 sg j1 j2 imm10H imm10L =>
    perform (branchForm s.cfg .thumb (s.cfg.haveV5 && s.cfg.haveThumb) false) s
      (let s' := s.setReg 14#4 (s.linkValue 4#32)
       .ok { s' with
         cpsr := { s'.cpsr with t := false }
         pc := align4 (s.pc + 4#32) +
           (BitVec.ofBool sg ++ iBit j1 sg ++ iBit j2 sg ++ imm10H ++ imm10L ++ 0#2).signExtend 32 })

/-- A branch to a register: BX and BLX are 16 bits in Thumb state and do not need `HaveT2` (R119). -/
def regBranchForm (e : Enc) (feature : Bool) : Form :=
  { enc := e, size := if e.isThumb then 2#32 else 4#32, feature := feature, place := .lastOnly, flow := .branch,
    own := none }

/-- BX (R424). -/
def execBx (e : Enc) (rm : Reg) (s : State) : Host.Outcome State Fault Refusal :=
  perform (regBranchForm e s.cfg.haveThumb) s (checked [srcPc rm, noSp e rm] (bxWritePc s (s.reg rm)))

/-- BLX to a register (R426): the target is read before LR is written. -/
def execBlxReg (e : Enc) (rm : Reg) (s : State) : Host.Outcome State Fault Refusal :=
  perform (regBranchForm e s.cfg.haveV5) s (checked [srcPc rm, noSp e rm]
    (bxWritePc (s.setReg 14#4 (s.linkValue (regBranchForm e s.cfg.haveV5).size)) (s.reg rm)))

/-- BXJ (R427): as BX when Jazelle is not available. -/
def execBxj (e : Enc) (rm : Reg) (s : State) : Host.Outcome State Fault Refusal :=
  perform (branchForm s.cfg e s.cfg.haveV5J true) s
    (checked [srcPc rm, noSp e rm, (s.cfg.jazelleAvailable, .jazelleNotModelled)] (bxWritePc s (s.reg rm)))

/-- A branch of Thumb state that may not stand in an IT block (R421, R428 to R431). -/
def looseForm (c : Config) (size : Word) : Form :=
  { enc := .thumb, size := size, feature := c.haveT2, place := .never, flow := .branch, own := none }

/-- Compare with zero and branch (R428, R429). -/
def cbOp (i : Bool) (imm5 : BitVec 5) (s : State) (taken : Bool) : Host.Outcome State Fault Refusal :=
  perform (looseForm s.cfg 2#32) s
    (if taken then branchWritePc s (s.pc + 4#32 + (BitVec.ofBool i ++ imm5 ++ 0#1).setWidth 32)
     else .ok { s with pc := s.pc + 2#32 })

/-- CBZ (R428). -/
def execCbz (i : Bool) (imm5 : BitVec 5) (rn : BitVec 3) (s : State) : Host.Outcome State Fault Refusal :=
  cbOp i imm5 s (s.reg (rn.setWidth 4) == 0#32)

/-- CBNZ (R429). -/
def execCbnz (i : Bool) (imm5 : BitVec 5) (rn : BitVec 3) (s : State) : Host.Outcome State Fault Refusal :=
  cbOp i imm5 s (s.reg (rn.setWidth 4) != 0#32)

/-- Table branch: the entry read, doubled, is added to pc + 4 (R430, R431). -/
def tableBranch (rn rm : Reg) (s : State) (index : Word) (w : Width) : Host.Outcome State Fault Refusal :=
  perform (looseForm s.cfg 4#32) s
    (checked [srcPc rm, noSp .thumb rm, noSp .thumb rn]
      (match memRead s s.privileged (s.reg rn + index) w with
       | .error x => .error x
       | .ok v => branchWritePc s (s.pc + 4#32 + v + v)))

/-- TBB (R430). -/
def execTbb (rn rm : Reg) (s : State) : Host.Outcome State Fault Refusal := tableBranch rn rm s (s.reg rm) .byte

/-- TBH (R431). -/
def execTbh (rn rm : Reg) (s : State) : Host.Outcome State Fault Refusal := tableBranch rn rm s (s.reg rm <<< 1) .half

end Sys2Proof.Machine
end

