-- ==== Sys2Proof/Machine/LoadStore.lean ====
section
/-! DEFINITION. Single data item loads and stores (spec 47_load_store). -/

namespace Sys2Proof.Machine

open Sys2Proof

/-- A loaded value extended to a word (R470). -/
def extendLoad (w : Width) (sg : Bool) (v : Word) : Word :=
  match w, sg with
  | .byte, true => (v.extractLsb' 0 8).signExtend 32
  | .half, true => (v.extractLsb' 0 16).signExtend 32
  | _, _ => v

/-- The effect of a load (R470): the access, then the base, then Rd. -/
def loadEffect (s : State) (priv : Bool) (a : Address) (w : Width) (sg : Bool) (rd : Reg) : Except Stop State :=
  match memRead s priv a.addr w with
  | .error x => .error x
  | .ok v => .ok ((s.writeBase a.writeback).setReg rd (extendLoad w sg v))

/-- The effect of a store (R470): the access, then the base. -/
def storeEffect (s : State) (priv : Bool) (a : Address) (w : Width) (rd : Reg) : Except Stop State :=
  match memWrite s priv a.addr w (s.reg rd) with
  | .error x => .error x
  | .ok s' => .ok (s'.writeBase a.writeback)

/-- A load with the current privilege (R470); `spD` says whether Rd may be R13 in Thumb state. -/
def load (e : Enc) (rd : Reg) (m : MemForm) (w : Width) (sg spD : Bool) (s : State) : Host.Outcome State Fault Refusal :=
  perform (form4 s.cfg e true) s
    (checked (memChecks s.cfg e true spD rd (memParts m)) (loadEffect s s.privileged (address s m) w sg rd))

/-- A store with the current privilege (R470). -/
def store (e : Enc) (rd : Reg) (m : MemForm) (w : Width) (spD : Bool) (s : State) : Host.Outcome State Fault Refusal :=
  perform (form4 s.cfg e true) s
    (checked (memChecks s.cfg e false spD rd (memParts m)) (storeEffect s s.privileged (address s m) w rd))

/-- A load with User rights (R86, R488). -/
def loadT (feature : Bool) (e : Enc) (rd : Reg) (m : MemFormT) (w : Width) (sg : Bool) (s : State) : Host.Outcome State Fault Refusal :=
  perform (form4 s.cfg e feature) s
    (checked (memChecks s.cfg e true false rd (memPartsT m)) (loadEffect s false (addressT s m) w sg rd))

/-- A store with User rights (R86, R493). -/
def storeT (feature : Bool) (e : Enc) (rd : Reg) (m : MemFormT) (w : Width) (s : State) : Host.Outcome State Fault Refusal :=
  perform (form4 s.cfg e feature) s
    (checked (memChecks s.cfg e false false rd (memPartsT m)) (storeEffect s false (addressT s m) w rd))

/-- LDR (R480). -/
def execLdr (e : Enc) (rd : Reg) (m : MemForm) (s : State) : Host.Outcome State Fault Refusal :=
  load e rd m .word false true s

/-- LDRB (R481). -/
def execLdrb (e : Enc) (rd : Reg) (m : MemForm) (s : State) : Host.Outcome State Fault Refusal :=
  load e rd m .byte false false s

/-- LDRSB (R482). -/
def execLdrsb (e : Enc) (rd : Reg) (m : MemForm) (s : State) : Host.Outcome State Fault Refusal :=
  load e rd m .byte true false s

/-- LDRH (R483). -/
def execLdrh (e : Enc) (rd : Reg) (m : MemForm) (s : State) : Host.Outcome State Fault Refusal :=
  load e rd m .half false false s

/-- LDRSH (R484). -/
def execLdrsh (e : Enc) (rd : Reg) (m : MemForm) (s : State) : Host.Outcome State Fault Refusal :=
  load e rd m .half true false s

/-- STR (R485). -/
def execStr (e : Enc) (rd : Reg) (m : MemForm) (s : State) : Host.Outcome State Fault Refusal :=
  store e rd m .word true s

/-- STRB (R486). -/
def execStrb (e : Enc) (rd : Reg) (m : MemForm) (s : State) : Host.Outcome State Fault Refusal :=
  store e rd m .byte false s

/-- STRH (R487). -/
def execStrh (e : Enc) (rd : Reg) (m : MemForm) (s : State) : Host.Outcome State Fault Refusal :=
  store e rd m .half false s

/-- LDRT (R488). -/
def execLdrt (e : Enc) (rd : Reg) (m : MemFormT) (s : State) : Host.Outcome State Fault Refusal :=
  loadT true e rd m .word false s

/-- LDRBT (R489). -/
def execLdrbt (e : Enc) (rd : Reg) (m : MemFormT) (s : State) : Host.Outcome State Fault Refusal :=
  loadT true e rd m .byte false s

/-- LDRSBT (R490). -/
def execLdrsbt (e : Enc) (rd : Reg) (m : MemFormT) (s : State) : Host.Outcome State Fault Refusal :=
  loadT s.cfg.haveT2 e rd m .byte true s

/-- LDRHT (R491). -/
def execLdrht (e : Enc) (rd : Reg) (m : MemFormT) (s : State) : Host.Outcome State Fault Refusal :=
  loadT s.cfg.haveT2 e rd m .half false s

/-- LDRSHT (R492). -/
def execLdrsht (e : Enc) (rd : Reg) (m : MemFormT) (s : State) : Host.Outcome State Fault Refusal :=
  loadT s.cfg.haveT2 e rd m .half true s

/-- STRT (R493). -/
def execStrt (e : Enc) (rd : Reg) (m : MemFormT) (s : State) : Host.Outcome State Fault Refusal :=
  storeT true e rd m .word s

/-- STRBT (R494). -/
def execStrbt (e : Enc) (rd : Reg) (m : MemFormT) (s : State) : Host.Outcome State Fault Refusal :=
  storeT true e rd m .byte s

/-- STRHT (R495). -/
def execStrht (e : Enc) (rd : Reg) (m : MemFormT) (s : State) : Host.Outcome State Fault Refusal :=
  storeT s.cfg.haveT2 e rd m .half s

end Sys2Proof.Machine
end

