-- ==== Sys2Proof/Machine/Parallel.lean ====
section
/-! DEFINITION. Saturating arithmetic, the 36 parallel instructions, sums of absolute differences and saturation
(spec 40_add_subtract, 41_parallel_saturate). -/

namespace Sys2Proof.Machine

open Sys2Proof

/-- Write Rd and set Q when something saturated or overflowed (R52). -/
def State.setRegQ (s : State) (rd : Reg) (v : Word) (q : Bool) : State :=
  let s' := s.setReg rd v
  { s' with cpsr := s'.cpsr.stickQ q }

/-- `SAT(x)` (R11): a 32-bit signed saturation. -/
def sat32 (i : Int) : Int × Bool := signedSatQ i 32

/-- QADD (R204). -/
def execQadd (e : Enc) (rd rm rn : Reg) (s : State) : Host.Outcome State Fault Refusal :=
  plainOp s.cfg.haveV5E e [rd] [rm, rn] s (fun s =>
    let r := sat32 ((s.reg rm).toInt + (s.reg rn).toInt)
    s.setRegQ rd (BitVec.ofInt 32 r.1) r.2)

/-- QSUB (R212). -/
def execQsub (e : Enc) (rd rm rn : Reg) (s : State) : Host.Outcome State Fault Refusal :=
  plainOp s.cfg.haveV5E e [rd] [rm, rn] s (fun s =>
    let r := sat32 ((s.reg rm).toInt - (s.reg rn).toInt)
    s.setRegQ rd (BitVec.ofInt 32 r.1) r.2)

/-- QDADD (R205): either saturation sets Q. -/
def execQdadd (e : Enc) (rd rm rn : Reg) (s : State) : Host.Outcome State Fault Refusal :=
  plainOp s.cfg.haveV5E e [rd] [rm, rn] s (fun s =>
    let d := sat32 (2 * (s.reg rn).toInt)
    let r := sat32 ((s.reg rm).toInt + d.1)
    s.setRegQ rd (BitVec.ofInt 32 r.1) (d.2 || r.2))

/-- QDSUB (R213). -/
def execQdsub (e : Enc) (rd rm rn : Reg) (s : State) : Host.Outcome State Fault Refusal :=
  plainOp s.cfg.haveV5E e [rd] [rm, rn] s (fun s =>
    let d := sat32 (2 * (s.reg rn).toInt)
    let r := sat32 ((s.reg rm).toInt - d.1)
    s.setRegQ rd (BitVec.ofInt 32 r.1) (d.2 || r.2))

/-- The prefixes of the parallel instructions (R230). -/
inductive ParPrefix where
  | s | q | sh | u | uq | uh
deriving DecidableEq, Repr

/-- The halfword operations (R230). -/
inductive HalfOp where
  | add16 | sub16 | asx | sax
deriving DecidableEq, Repr

/-- The prefixes that read lanes as signed (R230). -/
def parSigned : ParPrefix → Bool
  | .s => true | .q => true | .sh => true | .u => false | .uq => false | .uh => false

/-- The prefixes that write GE (R230). -/
def parWritesGe : ParPrefix → Bool
  | .s => true | .q => false | .sh => false | .u => true | .uq => false | .uh => false

/-- A lane as an integer. -/
def laneVal {w : Nat} (sg : Bool) (v : BitVec w) : Int := if sg then v.toInt else (v.toNat : Int)

/-- The result of a lane of `w` bits from its exact integer (R230); halving rounds toward minus infinity. -/
def laneResult (p : ParPrefix) (w : Nat) (x : Int) : BitVec w :=
  match p with
  | .s => BitVec.ofInt w x
  | .q => BitVec.ofInt w (signedSatQ x w).1
  | .sh => BitVec.ofInt w (x / 2)
  | .u => BitVec.ofInt w x
  | .uq => BitVec.ofInt w (unsignedSatQ x w).1
  | .uh => BitVec.ofInt w (x / 2)

/-- The GE condition of a lane of `w` bits that adds or subtracts (R230, note G). -/
def laneGe (p : ParPrefix) (adds : Bool) (w : Nat) (x : Int) : Bool :=
  if parSigned p then decide (0 ≤ x) else if adds then decide ((2 : Int) ^ w ≤ x) else decide (0 ≤ x)

/-- The exact low and high lanes of a halfword operation (R231 to R242, R255 to R266). -/
def halfLanes (sg : Bool) (op : HalfOp) (n m : Word) : Int × Int :=
  let nl := laneVal sg (n.extractLsb' 0 16)
  let nh := laneVal sg (n.extractLsb' 16 16)
  let ml := laneVal sg (m.extractLsb' 0 16)
  let mh := laneVal sg (m.extractLsb' 16 16)
  match op with
  | .add16 => (nl + ml, nh + mh)
  | .sub16 => (nl - ml, nh - mh)
  | .asx => (nl - mh, nh + ml)
  | .sax => (nl + mh, nh - ml)

/-- Whether the low and the high lane of a halfword operation add. -/
def halfAdds : HalfOp → Bool × Bool
  | .add16 => (true, true)
  | .sub16 => (false, false)
  | .asx => (false, true)
  | .sax => (true, false)

/-- GE[3:2] from the high lane and GE[1:0] from the low lane (R230). -/
def geOfHalves (hi lo : Bool) : BitVec 4 :=
  BitVec.ofBool hi ++ BitVec.ofBool hi ++ BitVec.ofBool lo ++ BitVec.ofBool lo

/-- The effect of a halfword-wise parallel instruction (R230). -/
def parallel16 (p : ParPrefix) (op : HalfOp) (e : Enc) (rd rn rm : Reg) (s : State) : Host.Outcome State Fault Refusal :=
  plainOp s.cfg.haveV6 e [rd] [rn, rm] s (fun s =>
    let x := halfLanes (parSigned p) op (s.reg rn) (s.reg rm)
    let s' := s.setReg rd (laneResult p 16 x.2 ++ laneResult p 16 x.1)
    if parWritesGe p then
      { s' with cpsr := { s'.cpsr with
          ge := geOfHalves (laneGe p (halfAdds op).2 16 x.2) (laneGe p (halfAdds op).1 16 x.1) } }
    else s')

/-- The exact byte lane `i` of a byte-wise operation (R243 to R254). -/
def byteLane (sg sub : Bool) (n m : Word) (i : Nat) : Int :=
  let a := laneVal sg (n.extractLsb' (8 * i) 8)
  let b := laneVal sg (m.extractLsb' (8 * i) 8)
  if sub then a - b else a + b

/-- The effect of a byte-wise parallel instruction (R230). -/
def parallel8 (p : ParPrefix) (sub : Bool) (e : Enc) (rd rn rm : Reg) (s : State) : Host.Outcome State Fault Refusal :=
  plainOp s.cfg.haveV6 e [rd] [rn, rm] s (fun s =>
    let x := byteLane (parSigned p) sub (s.reg rn) (s.reg rm)
    let s' := s.setReg rd
      (laneResult p 8 (x 3) ++ laneResult p 8 (x 2) ++ laneResult p 8 (x 1) ++ laneResult p 8 (x 0))
    if parWritesGe p then
      { s' with cpsr := { s'.cpsr with
          ge := BitVec.ofBool (laneGe p (!sub) 8 (x 3)) ++ BitVec.ofBool (laneGe p (!sub) 8 (x 2)) ++
            BitVec.ofBool (laneGe p (!sub) 8 (x 1)) ++ BitVec.ofBool (laneGe p (!sub) 8 (x 0)) } }
    else s')

/-- SADD16 (R231). -/
def execSadd16 (e : Enc) (rd rn rm : Reg) (s : State) : Host.Outcome State Fault Refusal :=
  parallel16 .s .add16 e rd rn rm s

/-- QADD16 (R232). -/
def execQadd16 (e : Enc) (rd rn rm : Reg) (s : State) : Host.Outcome State Fault Refusal :=
  parallel16 .q .add16 e rd rn rm s

/-- SHADD16 (R233). -/
def execShadd16 (e : Enc) (rd rn rm : Reg) (s : State) : Host.Outcome State Fault Refusal :=
  parallel16 .sh .add16 e rd rn rm s

/-- UADD16 (R234). -/
def execUadd16 (e : Enc) (rd rn rm : Reg) (s : State) : Host.Outcome State Fault Refusal :=
  parallel16 .u .add16 e rd rn rm s

/-- UQADD16 (R235). -/
def execUqadd16 (e : Enc) (rd rn rm : Reg) (s : State) : Host.Outcome State Fault Refusal :=
  parallel16 .uq .add16 e rd rn rm s

/-- UHADD16 (R236). -/
def execUhadd16 (e : Enc) (rd rn rm : Reg) (s : State) : Host.Outcome State Fault Refusal :=
  parallel16 .uh .add16 e rd rn rm s

/-- SSUB16 (R237). -/
def execSsub16 (e : Enc) (rd rn rm : Reg) (s : State) : Host.Outcome State Fault Refusal :=
  parallel16 .s .sub16 e rd rn rm s

/-- QSUB16 (R238). -/
def execQsub16 (e : Enc) (rd rn rm : Reg) (s : State) : Host.Outcome State Fault Refusal :=
  parallel16 .q .sub16 e rd rn rm s

/-- SHSUB16 (R239). -/
def execShsub16 (e : Enc) (rd rn rm : Reg) (s : State) : Host.Outcome State Fault Refusal :=
  parallel16 .sh .sub16 e rd rn rm s

/-- USUB16 (R240). -/
def execUsub16 (e : Enc) (rd rn rm : Reg) (s : State) : Host.Outcome State Fault Refusal :=
  parallel16 .u .sub16 e rd rn rm s

/-- UQSUB16 (R241). -/
def execUqsub16 (e : Enc) (rd rn rm : Reg) (s : State) : Host.Outcome State Fault Refusal :=
  parallel16 .uq .sub16 e rd rn rm s

/-- UHSUB16 (R242). -/
def execUhsub16 (e : Enc) (rd rn rm : Reg) (s : State) : Host.Outcome State Fault Refusal :=
  parallel16 .uh .sub16 e rd rn rm s

/-- SADD8 (R243). -/
def execSadd8 (e : Enc) (rd rn rm : Reg) (s : State) : Host.Outcome State Fault Refusal :=
  parallel8 .s false e rd rn rm s

/-- QADD8 (R244). -/
def execQadd8 (e : Enc) (rd rn rm : Reg) (s : State) : Host.Outcome State Fault Refusal :=
  parallel8 .q false e rd rn rm s

/-- SHADD8 (R245). -/
def execShadd8 (e : Enc) (rd rn rm : Reg) (s : State) : Host.Outcome State Fault Refusal :=
  parallel8 .sh false e rd rn rm s

/-- UADD8 (R246). -/
def execUadd8 (e : Enc) (rd rn rm : Reg) (s : State) : Host.Outcome State Fault Refusal :=
  parallel8 .u false e rd rn rm s

/-- UQADD8 (R247). -/
def execUqadd8 (e : Enc) (rd rn rm : Reg) (s : State) : Host.Outcome State Fault Refusal :=
  parallel8 .uq false e rd rn rm s

/-- UHADD8 (R248). -/
def execUhadd8 (e : Enc) (rd rn rm : Reg) (s : State) : Host.Outcome State Fault Refusal :=
  parallel8 .uh false e rd rn rm s

/-- SSUB8 (R249). -/
def execSsub8 (e : Enc) (rd rn rm : Reg) (s : State) : Host.Outcome State Fault Refusal :=
  parallel8 .s true e rd rn rm s

/-- QSUB8 (R250). -/
def execQsub8 (e : Enc) (rd rn rm : Reg) (s : State) : Host.Outcome State Fault Refusal :=
  parallel8 .q true e rd rn rm s

/-- SHSUB8 (R251). -/
def execShsub8 (e : Enc) (rd rn rm : Reg) (s : State) : Host.Outcome State Fault Refusal :=
  parallel8 .sh true e rd rn rm s

/-- USUB8 (R252). -/
def execUsub8 (e : Enc) (rd rn rm : Reg) (s : State) : Host.Outcome State Fault Refusal :=
  parallel8 .u true e rd rn rm s

/-- UQSUB8 (R253). -/
def execUqsub8 (e : Enc) (rd rn rm : Reg) (s : State) : Host.Outcome State Fault Refusal :=
  parallel8 .uq true e rd rn rm s

/-- UHSUB8 (R254). -/
def execUhsub8 (e : Enc) (rd rn rm : Reg) (s : State) : Host.Outcome State Fault Refusal :=
  parallel8 .uh true e rd rn rm s

/-- SASX (R255). -/
def execSasx (e : Enc) (rd rn rm : Reg) (s : State) : Host.Outcome State Fault Refusal :=
  parallel16 .s .asx e rd rn rm s

/-- QASX (R256). -/
def execQasx (e : Enc) (rd rn rm : Reg) (s : State) : Host.Outcome State Fault Refusal :=
  parallel16 .q .asx e rd rn rm s

/-- SHASX (R257). -/
def execShasx (e : Enc) (rd rn rm : Reg) (s : State) : Host.Outcome State Fault Refusal :=
  parallel16 .sh .asx e rd rn rm s

/-- UASX (R258). -/
def execUasx (e : Enc) (rd rn rm : Reg) (s : State) : Host.Outcome State Fault Refusal :=
  parallel16 .u .asx e rd rn rm s

/-- UQASX (R259). -/
def execUqasx (e : Enc) (rd rn rm : Reg) (s : State) : Host.Outcome State Fault Refusal :=
  parallel16 .uq .asx e rd rn rm s

/-- UHASX (R260). -/
def execUhasx (e : Enc) (rd rn rm : Reg) (s : State) : Host.Outcome State Fault Refusal :=
  parallel16 .uh .asx e rd rn rm s

/-- SSAX (R261). -/
def execSsax (e : Enc) (rd rn rm : Reg) (s : State) : Host.Outcome State Fault Refusal :=
  parallel16 .s .sax e rd rn rm s

/-- QSAX (R262). -/
def execQsax (e : Enc) (rd rn rm : Reg) (s : State) : Host.Outcome State Fault Refusal :=
  parallel16 .q .sax e rd rn rm s

/-- SHSAX (R263). -/
def execShsax (e : Enc) (rd rn rm : Reg) (s : State) : Host.Outcome State Fault Refusal :=
  parallel16 .sh .sax e rd rn rm s

/-- USAX (R264). -/
def execUsax (e : Enc) (rd rn rm : Reg) (s : State) : Host.Outcome State Fault Refusal :=
  parallel16 .u .sax e rd rn rm s

/-- UQSAX (R265). -/
def execUqsax (e : Enc) (rd rn rm : Reg) (s : State) : Host.Outcome State Fault Refusal :=
  parallel16 .uq .sax e rd rn rm s

/-- UHSAX (R266). -/
def execUhsax (e : Enc) (rd rn rm : Reg) (s : State) : Host.Outcome State Fault Refusal :=
  parallel16 .uh .sax e rd rn rm s

/-- The sum of the absolute differences of the unsigned bytes (R267). -/
def sumAbsDiff (a b : Word) : Nat :=
  let d := fun i : Nat =>
    (((a.extractLsb' (8 * i) 8).toNat : Int) - ((b.extractLsb' (8 * i) 8).toNat : Int)).natAbs
  d 0 + d 1 + d 2 + d 3

/-- USAD8 (R267). -/
def execUsad8 (e : Enc) (rd rm rs : Reg) (s : State) : Host.Outcome State Fault Refusal :=
  plainOp s.cfg.haveV6 e [rd] [rm, rs] s (fun s =>
    s.setReg rd (BitVec.ofNat 32 (sumAbsDiff (s.reg rm) (s.reg rs))))

/-- USADA8 (R268). -/
def execUsada8 (e : Enc) (rd rm rs rn : Reg) (s : State) : Host.Outcome State Fault Refusal :=
  plainOp s.cfg.haveV6 e [rd] [rm, rs, rn] s (fun s =>
    s.setReg rd (BitVec.ofNat 32 ((s.reg rn).toNat + sumAbsDiff (s.reg rm) (s.reg rs))))

/-- The operand of SSAT and USAT: Rm shifted left, or right arithmetically with 0 meaning 32 (R269, R271). -/
def satOperand (s : State) (asr : Bool) (imm5 : BitVec 5) (rm : Reg) : Word :=
  (shiftConst (s.reg rm) (if asr then .asr else .lsl) imm5 s.cpsr.c).1

/-- SSAT (R269): saturate to satImm + 1 bits. -/
def execSsat (e : Enc) (rd : Reg) (satImm : BitVec 5) (sh : Bool) (imm5 : BitVec 5) (rm : Reg) (s : State)
    : Host.Outcome State Fault Refusal :=
  plainOp s.cfg.haveV6 e [rd] [rm] s (fun s =>
    let r := signedSatQ (satOperand s sh imm5 rm).toInt (satImm.toNat + 1)
    s.setRegQ rd (BitVec.ofInt 32 r.1) r.2)

/-- USAT (R271): the operand is read as signed. -/
def execUsat (e : Enc) (rd : Reg) (satImm : BitVec 5) (sh : Bool) (imm5 : BitVec 5) (rm : Reg) (s : State)
    : Host.Outcome State Fault Refusal :=
  plainOp s.cfg.haveV6 e [rd] [rm] s (fun s =>
    let r := unsignedSatQ (satOperand s sh imm5 rm).toInt satImm.toNat
    s.setRegQ rd (BitVec.ofInt 32 r.1) r.2)

/-- SSAT16 (R270). -/
def execSsat16 (e : Enc) (rd : Reg) (satImm : BitVec 4) (rm : Reg) (s : State) : Host.Outcome State Fault Refusal :=
  plainOp s.cfg.haveV6 e [rd] [rm] s (fun s =>
    let lo := signedSatQ ((s.reg rm).extractLsb' 0 16).toInt (satImm.toNat + 1)
    let hi := signedSatQ ((s.reg rm).extractLsb' 16 16).toInt (satImm.toNat + 1)
    s.setRegQ rd (BitVec.ofInt 16 hi.1 ++ BitVec.ofInt 16 lo.1) (lo.2 || hi.2))

/-- USAT16 (R272): the halves are read as signed. -/
def execUsat16 (e : Enc) (rd : Reg) (satImm : BitVec 4) (rm : Reg) (s : State) : Host.Outcome State Fault Refusal :=
  plainOp s.cfg.haveV6 e [rd] [rm] s (fun s =>
    let lo := unsignedSatQ ((s.reg rm).extractLsb' 0 16).toInt satImm.toNat
    let hi := unsignedSatQ ((s.reg rm).extractLsb' 16 16).toInt satImm.toNat
    s.setRegQ rd (BitVec.ofInt 16 hi.1 ++ BitVec.ofInt 16 lo.1) (lo.2 || hi.2))

end Sys2Proof.Machine
end

