-- ==== Sys2Proof/Machine/Multiply.lean ====
section
/-! DEFINITION. Multiply, multiply-accumulate, the XScale accumulator and divide (spec 42_multiply_divide,
43_move_shift_compare_logical R345, R346). Integers are exact until a rule truncates them. -/

namespace Sys2Proof.Machine

open Sys2Proof

/-- The half of a register that x or y selects, signed (R290). -/
def half (w : Word) (top : Bool) : Int := if top then (w.extractLsb' 16 16).toInt else (w.extractLsb' 0 16).toInt

/-- `RsX` (R290): Rs rotated by 16 when X is present. -/
def rsX (w : Word) (x : Bool) : Word := if x then rorWord w 16 else w

/-- The integer does not fit a signed word (R290, note Q). -/
def overflows (i : Int) : Bool := (BitVec.ofInt 32 i).toInt != i

/-- The two products of the dual multiplies (R304). -/
def products (m r : Word) (x : Bool) : Int × Int :=
  (half m false * half (rsX r x) false, half m true * half (rsX r x) true)

/-- A register pair as a 64-bit value (R7). -/
def State.pair (s : State) (lo hi : Reg) : BitVec 64 := s.reg hi ++ s.reg lo

/-- Before ARMv6 these registers may not coincide (R113 item 5). -/
def oldDistinct (c : Config) (a b : Reg) : Bool × Refusal := (!c.haveV6 && a == b, .sameRegister)

/-- MUL (R291). -/
def execMul (e : Enc) (sf : Bool) (rd rm rs : Reg) (s : State) : Host.Outcome State Fault Refusal :=
  perform (form4 s.cfg e true) s (checked (plainChecks e [rd] [rm, rs] ++ [oldDistinct s.cfg rd rm])
    (let r := BitVec.ofNat 32 ((s.reg rm).toNat * (s.reg rs).toNat)
     .ok (if sf then mulFlags32 (s.setReg rd r) r else s.setReg rd r)))

/-- MLA (R292). -/
def execMla (e : Enc) (sf : Bool) (rd rm rs rn : Reg) (s : State) : Host.Outcome State Fault Refusal :=
  perform (form4 s.cfg e true) s (checked (plainChecks e [rd] [rm, rs, rn] ++ [oldDistinct s.cfg rd rm])
    (let r := BitVec.ofNat 32 ((s.reg rn).toNat + (s.reg rm).toNat * (s.reg rs).toNat)
     .ok (if sf then mulFlags32 (s.setReg rd r) r else s.setReg rd r)))

/-- MLS (R293). -/
def execMls (e : Enc) (rd rm rs rn : Reg) (s : State) : Host.Outcome State Fault Refusal :=
  plainOp s.cfg.haveT2 e [rd] [rm, rs, rn] s (fun s =>
    s.setReg rd (BitVec.ofInt 32 (((s.reg rn).toNat : Int) - ((s.reg rm).toNat : Int) * ((s.reg rs).toNat : Int))))

/-- The shape of the long multiplies with an S bit (R290, R294, R295, R297, R298). -/
def longMul (e : Enc) (sf : Bool) (lo hi rm rs : Reg) (s : State) (r : BitVec 64) : Host.Outcome State Fault Refusal :=
  perform (form4 s.cfg e true) s (checked (plainChecks e [lo, hi] [rm, rs] ++
      [distinct lo hi, oldDistinct s.cfg lo rm, oldDistinct s.cfg hi rm])
    (.ok (if sf then mulFlags64 (s.setPair lo hi r) r else s.setPair lo hi r)))

/-- UMULL (R294). -/
def execUmull (e : Enc) (sf : Bool) (lo hi rm rs : Reg) (s : State) : Host.Outcome State Fault Refusal :=
  longMul e sf lo hi rm rs s (BitVec.ofNat 64 ((s.reg rm).toNat * (s.reg rs).toNat))

/-- UMLAL (R295). -/
def execUmlal (e : Enc) (sf : Bool) (lo hi rm rs : Reg) (s : State) : Host.Outcome State Fault Refusal :=
  longMul e sf lo hi rm rs s (BitVec.ofNat 64 ((s.pair lo hi).toNat + (s.reg rm).toNat * (s.reg rs).toNat))

/-- SMULL (R297). -/
def execSmull (e : Enc) (sf : Bool) (lo hi rm rs : Reg) (s : State) : Host.Outcome State Fault Refusal :=
  longMul e sf lo hi rm rs s (BitVec.ofInt 64 ((s.reg rm).toInt * (s.reg rs).toInt))

/-- SMLAL (R298). -/
def execSmlal (e : Enc) (sf : Bool) (lo hi rm rs : Reg) (s : State) : Host.Outcome State Fault Refusal :=
  longMul e sf lo hi rm rs s (BitVec.ofInt 64 ((s.pair lo hi).toInt + (s.reg rm).toInt * (s.reg rs).toInt))

/-- The shape of the long multiplies without flags (R296, R303, R306, R309). -/
def longPlain (feature : Bool) (e : Enc) (lo hi rm rs : Reg) (s : State) (r : BitVec 64) : Host.Outcome State Fault Refusal :=
  perform (form4 s.cfg e feature) s (checked (plainChecks e [lo, hi] [rm, rs] ++ [distinct lo hi])
    (.ok (s.setPair lo hi r)))

/-- UMAAL (R296): RdHi and RdLo are two separate addends. -/
def execUmaal (e : Enc) (lo hi rm rs : Reg) (s : State) : Host.Outcome State Fault Refusal :=
  longPlain s.cfg.haveV6 e lo hi rm rs s
    (BitVec.ofNat 64 ((s.reg hi).toNat + (s.reg lo).toNat + (s.reg rm).toNat * (s.reg rs).toNat))

/-- SMULxy (R299). -/
def execSmulxy (e : Enc) (x y : Bool) (rd rm rs : Reg) (s : State) : Host.Outcome State Fault Refusal :=
  plainOp s.cfg.haveV5E e [rd] [rm, rs] s (fun s =>
    s.setReg rd (BitVec.ofInt 32 (half (s.reg rm) x * half (s.reg rs) y)))

/-- SMULWy (R300): bits 47 to 16 of the product. -/
def execSmulwy (e : Enc) (y : Bool) (rd rm rs : Reg) (s : State) : Host.Outcome State Fault Refusal :=
  plainOp s.cfg.haveV5E e [rd] [rm, rs] s (fun s =>
    s.setReg rd (BitVec.ofInt 32 ((s.reg rm).toInt * half (s.reg rs) y / 65536)))

/-- SMLAxy (R301): Q on overflow of the addition; the result wraps. -/
def execSmlaxy (e : Enc) (x y : Bool) (rd rm rs rn : Reg) (s : State) : Host.Outcome State Fault Refusal :=
  plainOp s.cfg.haveV5E e [rd] [rm, rs, rn] s (fun s =>
    let r := (s.reg rn).toInt + half (s.reg rm) x * half (s.reg rs) y
    s.setRegQ rd (BitVec.ofInt 32 r) (overflows r))

/-- SMLAWy (R302). -/
def execSmlawy (e : Enc) (y : Bool) (rd rm rs rn : Reg) (s : State) : Host.Outcome State Fault Refusal :=
  plainOp s.cfg.haveV5E e [rd] [rm, rs, rn] s (fun s =>
    let r := (s.reg rn).toInt + (s.reg rm).toInt * half (s.reg rs) y / 65536
    s.setRegQ rd (BitVec.ofInt 32 r) (overflows r))

/-- SMLALxy (R303). -/
def execSmlalxy (e : Enc) (x y : Bool) (lo hi rm rs : Reg) (s : State) : Host.Outcome State Fault Refusal :=
  longPlain s.cfg.haveV5E e lo hi rm rs s
    (BitVec.ofInt 64 ((s.pair lo hi).toInt + half (s.reg rm) x * half (s.reg rs) y))

/-- SMUAD (R304). -/
def execSmuad (e : Enc) (x : Bool) (rd rm rs : Reg) (s : State) : Host.Outcome State Fault Refusal :=
  plainOp s.cfg.haveV6 e [rd] [rm, rs] s (fun s =>
    let p := products (s.reg rm) (s.reg rs) x
    s.setRegQ rd (BitVec.ofInt 32 (p.1 + p.2)) (overflows (p.1 + p.2)))

/-- SMLAD (R305). -/
def execSmlad (e : Enc) (x : Bool) (rd rm rs rn : Reg) (s : State) : Host.Outcome State Fault Refusal :=
  plainOp s.cfg.haveV6 e [rd] [rm, rs, rn] s (fun s =>
    let p := products (s.reg rm) (s.reg rs) x
    let r := (s.reg rn).toInt + p.1 + p.2
    s.setRegQ rd (BitVec.ofInt 32 r) (overflows r))

/-- SMLALD (R306). -/
def execSmlald (e : Enc) (x : Bool) (lo hi rm rs : Reg) (s : State) : Host.Outcome State Fault Refusal :=
  longPlain s.cfg.haveV6 e lo hi rm rs s
    (let p := products (s.reg rm) (s.reg rs) x
     BitVec.ofInt 64 ((s.pair lo hi).toInt + p.1 + p.2))

/-- SMUSD (R307): never sets Q. -/
def execSmusd (e : Enc) (x : Bool) (rd rm rs : Reg) (s : State) : Host.Outcome State Fault Refusal :=
  plainOp s.cfg.haveV6 e [rd] [rm, rs] s (fun s =>
    let p := products (s.reg rm) (s.reg rs) x
    s.setReg rd (BitVec.ofInt 32 (p.1 - p.2)))

/-- SMLSD (R308). -/
def execSmlsd (e : Enc) (x : Bool) (rd rm rs rn : Reg) (s : State) : Host.Outcome State Fault Refusal :=
  plainOp s.cfg.haveV6 e [rd] [rm, rs, rn] s (fun s =>
    let p := products (s.reg rm) (s.reg rs) x
    let r := (s.reg rn).toInt + p.1 - p.2
    s.setRegQ rd (BitVec.ofInt 32 r) (overflows r))

/-- SMLSLD (R309). -/
def execSmlsld (e : Enc) (x : Bool) (lo hi rm rs : Reg) (s : State) : Host.Outcome State Fault Refusal :=
  longPlain s.cfg.haveV6 e lo hi rm rs s
    (let p := products (s.reg rm) (s.reg rs) x
     BitVec.ofInt 64 ((s.pair lo hi).toInt + p.1 - p.2))

/-- Bits 63 to 32 of an integer modulo 2^64, rounded to nearest when `r` (R310). -/
def topWord (i : Int) (r : Bool) : Word := (BitVec.ofInt 64 (if r then i + 0x80000000 else i)).extractLsb' 32 32

/-- SMMUL (R310). -/
def execSmmul (e : Enc) (r : Bool) (rd rm rs : Reg) (s : State) : Host.Outcome State Fault Refusal :=
  plainOp s.cfg.haveV6 e [rd] [rm, rs] s (fun s =>
    s.setReg rd (topWord ((s.reg rm).toInt * (s.reg rs).toInt) r))

/-- SMMLA (R311). -/
def execSmmla (e : Enc) (r : Bool) (rd rm rs rn : Reg) (s : State) : Host.Outcome State Fault Refusal :=
  plainOp s.cfg.haveV6 e [rd] [rm, rs, rn] s (fun s =>
    s.setReg rd (topWord ((s.reg rn).toInt * 4294967296 + (s.reg rm).toInt * (s.reg rs).toInt) r))

/-- SMMLS (R312): the top word of the 64-bit difference (90_conflicts C2). -/
def execSmmls (e : Enc) (r : Bool) (rd rm rs rn : Reg) (s : State) : Host.Outcome State Fault Refusal :=
  plainOp s.cfg.haveV6 e [rd] [rm, rs, rn] s (fun s =>
    s.setReg rd (topWord ((s.reg rn).toInt * 4294967296 - (s.reg rm).toInt * (s.reg rs).toInt) r))

/-- The shape of the accumulator multiplies: ARM state, `HaveXS`, modulo 2^40 (R60, R313). -/
def macOp (c : Cond) (rm rs : Reg) (s : State) (p : Int) : Host.Outcome State Fault Refusal :=
  perform (form4 s.cfg (.a32 c) s.cfg.haveXS) s (checked [srcPc rm, srcPc rs]
    (.ok { s with ac := BitVec.ofInt 40 (s.ac.toInt + p) }))

/-- MIA (R313). -/
def execMia (c : Cond) (rm rs : Reg) (s : State) : Host.Outcome State Fault Refusal :=
  macOp c rm rs s ((s.reg rm).toInt * (s.reg rs).toInt)

/-- MIAPH (R314). -/
def execMiaph (c : Cond) (rm rs : Reg) (s : State) : Host.Outcome State Fault Refusal :=
  macOp c rm rs s (half (s.reg rm) false * half (s.reg rs) false + half (s.reg rm) true * half (s.reg rs) true)

/-- MIAxy (R315). -/
def execMiaxy (c : Cond) (x y : Bool) (rm rs : Reg) (s : State) : Host.Outcome State Fault Refusal :=
  macOp c rm rs s (half (s.reg rm) x * half (s.reg rs) y)

/-- MAR (R346): bits 31 to 8 of RdHi are ignored. -/
def execMar (c : Cond) (lo hi : Reg) (s : State) : Host.Outcome State Fault Refusal :=
  perform (form4 s.cfg (.a32 c) s.cfg.haveXS) s (checked [srcPc lo, srcPc hi, distinct lo hi]
    (.ok { s with ac := (s.reg hi).extractLsb' 0 8 ++ s.reg lo }))

/-- MRA (R345): RdHi receives Ac[39:32] sign-extended (log 23). -/
def execMra (c : Cond) (lo hi : Reg) (s : State) : Host.Outcome State Fault Refusal :=
  perform (form4 s.cfg (.a32 c) s.cfg.haveXS) s (checked [destPc lo, destPc hi, distinct lo hi]
    (.ok ((s.setReg hi ((s.ac.extractLsb' 32 8).signExtend 32)).setReg lo (s.ac.extractLsb' 0 32))))

/-- The shape of the divisions (R316, R317): `i` is the instruction, whose bits the exception
records beside its reason (R525, log 24). -/
def divide (i : Instr) (e : Enc) (rd rn rm : Reg) (s : State) (q : Word) : Host.Outcome State Fault Refusal :=
  perform (form4 s.cfg e s.cfg.haveRM) s (checked (plainChecks e [rd] [rn, rm])
    (if s.reg rm = 0#32 then
      match s.cfg.divByZero with
      | .fault => .error (.raise (.undefinedInstruction .divideByZero (encode i)))
      | .zero => .ok (s.setReg rd 0#32)
     else .ok (s.setReg rd q)))

/-- SDIV (R316): rounds toward zero; 0x80000000 / -1 wraps. -/
def execSdiv (e : Enc) (rd rn rm : Reg) (s : State) : Host.Outcome State Fault Refusal :=
  divide (.sdiv e rd rn rm) e rd rn rm s (BitVec.ofInt 32 ((s.reg rn).toInt.tdiv (s.reg rm).toInt))

/-- UDIV (R317). -/
def execUdiv (e : Enc) (rd rn rm : Reg) (s : State) : Host.Outcome State Fault Refusal :=
  divide (.udiv e rd rn rm) e rd rn rm s (BitVec.ofNat 32 ((s.reg rn).toNat / (s.reg rm).toNat))

end Sys2Proof.Machine
end

