-- ==== Sys2Proof/Machine/Status.lean ====
section
/-! DEFINITION. Status register access and processor state change (spec 46_psr_state_change). -/

namespace Sys2Proof.Machine

open Sys2Proof

/-- `CPSRWriteByInstr(value, mask)` (R450): `mask` is f : s : x : c; privileged bits are ignored in User mode, and a
field the processor lacks is not written. -/
def cpsrWrite (s : State) (v : Word) (mask : BitVec 4) : Except Stop State :=
  let priv := s.privileged
  let f := mask.getLsbD 3
  let x := mask.getLsbD 1
  let c := mask.getLsbD 0 && priv
  let p := s.cpsr
  match (if c then Mode.ofBits (v.extractLsb' 0 5) else some p.mode) with
  | none => .error (.refuse .badMode)
  | some m =>
    .ok { s with cpsr := { p with
      n := if f then v.getLsbD 31 else p.n
      z := if f then v.getLsbD 30 else p.z
      c := if f then v.getLsbD 29 else p.c
      v := if f then v.getLsbD 28 else p.v
      q := if f && s.cfg.haveV5E then v.getLsbD 27 else p.q
      ge := if mask.getLsbD 2 && s.cfg.haveV6 then v.extractLsb' 16 4 else p.ge
      e := if x && s.cfg.haveV6 then v.getLsbD 9 else p.e
      a := if x && priv && s.cfg.haveV6 then v.getLsbD 8 else p.a
      i := if c then v.getLsbD 7 else p.i
      f := if c then v.getLsbD 6 else p.f
      mode := m } }

/-- The bytes of a word that a mask f : s : x : c selects (R57). -/
def byteMask (mask : BitVec 4) : Word :=
  (if mask.getLsbD 3 then 0xFF#8 else 0#8) ++ (if mask.getLsbD 2 then 0xFF#8 else 0#8) ++
    (if mask.getLsbD 1 then 0xFF#8 else 0#8) ++ (if mask.getLsbD 0 then 0xFF#8 else 0#8)

/-- Write selected bytes of the SPSR of the current mode; nothing is filtered (R452). -/
def spsrWrite (s : State) (v : Word) (mask : BitVec 4) : Except Stop State :=
  match s.spsr with
  | none => .error (.refuse .noSpsr)
  | some old => .ok (s.setSpsr ((old &&& ~~~byteMask mask) ||| (v &&& byteMask mask)))

/-- MRS (R451): of the CPSR the IT, J and T bits read as zero. -/
def execMrs (e : Enc) (spsr : Bool) (rd : Reg) (s : State) : Host.Outcome State Fault Refusal :=
  perform (form4 s.cfg e true) s (checked (plainChecks e [rd] [])
    (if spsr then
      match s.spsr with
      | none => .error (.refuse .noSpsr)
      | some w => .ok (s.setReg rd w)
     else .ok (s.setReg rd (s.cpsr.toWord &&& 0xF8FF03DF#32))))

/-- MSR from a register (R452). -/
def execMsrReg (e : Enc) (spsr : Bool) (mask : BitVec 4) (rm : Reg) (s : State) : Host.Outcome State Fault Refusal :=
  perform (form4 s.cfg e true) s (checked (plainChecks e [] [rm])
    (if spsr then spsrWrite s (s.reg rm) mask else cpsrWrite s (s.reg rm) mask))

/-- MSR with an immediate, ARM state only (R453). -/
def execMsrImm (c : Cond) (spsr : Bool) (mask rotate : BitVec 4) (imm8 : BitVec 8) (s : State) : Host.Outcome State Fault Refusal :=
  perform (form4 s.cfg (.a32 c) true) s
    (if spsr then spsrWrite s (armExpandImm rotate imm8 s.cpsr.c).1 mask
     else cpsrWrite s (armExpandImm rotate imm8 s.cpsr.c).1 mask)

/-- The form of CPS, CPSIE, CPSID: unconditional, never in an IT block (R454). -/
def cpsForm (c : Config) (thumb : Bool) : Form := { form4 c (encOf thumb) c.haveV6 with place := .never }

/-- A mode change by CPS and the like: a number that is not a mode is refused (R454). -/
def changeMode (s : State) (mode : BitVec 5) : Except Stop State :=
  match Mode.ofBits mode with
  | none => .error (.refuse .badMode)
  | some m => .ok { s with cpsr := { s.cpsr with mode := m } }

/-- CPSIE and CPSID: the named masks become `v`, then the optional mode change; nothing in User mode (R454, R455). -/
def cpsOp (v thumb m a i f : Bool) (mode : BitVec 5) (s : State) : Host.Outcome State Fault Refusal :=
  perform (cpsForm s.cfg thumb) s
    (if s.privileged then
      let s' : State := { s with cpsr := { s.cpsr with
        a := if a then v else s.cpsr.a, i := if i then v else s.cpsr.i, f := if f then v else s.cpsr.f } }
      if m then changeMode s' mode else .ok s'
     else .ok s)

/-- CPSIE (R455). -/
def execCpsie (thumb m a i f : Bool) (mode : BitVec 5) (s : State) : Host.Outcome State Fault Refusal :=
  cpsOp false thumb m a i f mode s

/-- CPSID (R454). -/
def execCpsid (thumb m a i f : Bool) (mode : BitVec 5) (s : State) : Host.Outcome State Fault Refusal :=
  cpsOp true thumb m a i f mode s

/-- CPS (R456). -/
def execCps (thumb : Bool) (mode : BitVec 5) (s : State) : Host.Outcome State Fault Refusal :=
  perform (cpsForm s.cfg thumb) s (if s.privileged then changeMode s mode else .ok s)

/-- SETEND (R457): allowed in every mode; 16 bits in Thumb state. -/
def execSetend (thumb big : Bool) (s : State) : Host.Outcome State Fault Refusal :=
  perform { enc := encOf thumb, size := if thumb then 2#32 else 4#32, feature := s.cfg.haveV6, place := .never,
            flow := .sequential, own := none } s
    (.ok { s with cpsr := { s.cpsr with e := big } })

end Sys2Proof.Machine
end

