-- ==== Sys2Proof/Machine/Dispatch.lean ====
section
/-! DEFINITION. One meaning per instruction. -/

namespace Sys2Proof.Machine

open Sys2Proof

/-- The meaning of an instruction at a state. -/
def exec (i : Instr) (s : State) : Host.Outcome State Fault Refusal :=
  match i with
  | .and e sf rd rn o => Sys2Proof.Machine.execAnd e sf rd rn o s
  | .eor e sf rd rn o => Sys2Proof.Machine.execEor e sf rd rn o s
  | .sub e sf rd rn o => Sys2Proof.Machine.execSub e sf rd rn o s
  | .rsb e sf rd rn o => Sys2Proof.Machine.execRsb e sf rd rn o s
  | .add e sf rd rn o => Sys2Proof.Machine.execAdd e sf rd rn o s
  | .adc e sf rd rn o => Sys2Proof.Machine.execAdc e sf rd rn o s
  | .sbc e sf rd rn o => Sys2Proof.Machine.execSbc e sf rd rn o s
  | .orr e sf rd rn o => Sys2Proof.Machine.execOrr e sf rd rn o s
  | .bic e sf rd rn o => Sys2Proof.Machine.execBic e sf rd rn o s
  | .rsc c sf rd rn o => Sys2Proof.Machine.execRsc c sf rd rn o s
  | .orn sf rd rn o => Sys2Proof.Machine.execOrn sf rd rn o s
  | .tst e rn o => Sys2Proof.Machine.execTst e rn o s
  | .teq e rn o => Sys2Proof.Machine.execTeq e rn o s
  | .cmp e rn o => Sys2Proof.Machine.execCmp e rn o s
  | .cmn e rn o => Sys2Proof.Machine.execCmn e rn o s
  | .mov e sf rd o => Sys2Proof.Machine.execMov e sf rd o s
  | .mvn e sf rd o => Sys2Proof.Machine.execMvn e sf rd o s
  | .rrx e sf rd rm => Sys2Proof.Machine.execRrx e sf rd rm s
  | .adr add rd imm12 => Sys2Proof.Machine.execAdr add rd imm12 s
  | .subsPcLr imm8 => Sys2Proof.Machine.execSubsPcLr imm8 s
  | .lsl sf rd rm rs => Sys2Proof.Machine.execLsl sf rd rm rs s
  | .lsr sf rd rm rs => Sys2Proof.Machine.execLsr sf rd rm rs s
  | .asr sf rd rm rs => Sys2Proof.Machine.execAsr sf rd rm rs s
  | .ror sf rd rm rs => Sys2Proof.Machine.execRor sf rd rm rs s
  | .movw e rd imm16 => Sys2Proof.Machine.execMovw e rd imm16 s
  | .movt e rd imm16 => Sys2Proof.Machine.execMovt e rd imm16 s
  | .addw rd rn imm12 => Sys2Proof.Machine.execAddw rd rn imm12 s
  | .subw rd rn imm12 => Sys2Proof.Machine.execSubw rd rn imm12 s
  | .qadd e rd rm rn => Sys2Proof.Machine.execQadd e rd rm rn s
  | .qsub e rd rm rn => Sys2Proof.Machine.execQsub e rd rm rn s
  | .qdadd e rd rm rn => Sys2Proof.Machine.execQdadd e rd rm rn s
  | .qdsub e rd rm rn => Sys2Proof.Machine.execQdsub e rd rm rn s
  | .sadd16 e rd rn rm => Sys2Proof.Machine.execSadd16 e rd rn rm s
  | .qadd16 e rd rn rm => Sys2Proof.Machine.execQadd16 e rd rn rm s
  | .shadd16 e rd rn rm => Sys2Proof.Machine.execShadd16 e rd rn rm s
  | .uadd16 e rd rn rm => Sys2Proof.Machine.execUadd16 e rd rn rm s
  | .uqadd16 e rd rn rm => Sys2Proof.Machine.execUqadd16 e rd rn rm s
  | .uhadd16 e rd rn rm => Sys2Proof.Machine.execUhadd16 e rd rn rm s
  | .ssub16 e rd rn rm => Sys2Proof.Machine.execSsub16 e rd rn rm s
  | .qsub16 e rd rn rm => Sys2Proof.Machine.execQsub16 e rd rn rm s
  | .shsub16 e rd rn rm => Sys2Proof.Machine.execShsub16 e rd rn rm s
  | .usub16 e rd rn rm => Sys2Proof.Machine.execUsub16 e rd rn rm s
  | .uqsub16 e rd rn rm => Sys2Proof.Machine.execUqsub16 e rd rn rm s
  | .uhsub16 e rd rn rm => Sys2Proof.Machine.execUhsub16 e rd rn rm s
  | .sadd8 e rd rn rm => Sys2Proof.Machine.execSadd8 e rd rn rm s
  | .qadd8 e rd rn rm => Sys2Proof.Machine.execQadd8 e rd rn rm s
  | .shadd8 e rd rn rm => Sys2Proof.Machine.execShadd8 e rd rn rm s
  | .uadd8 e rd rn rm => Sys2Proof.Machine.execUadd8 e rd rn rm s
  | .uqadd8 e rd rn rm => Sys2Proof.Machine.execUqadd8 e rd rn rm s
  | .uhadd8 e rd rn rm => Sys2Proof.Machine.execUhadd8 e rd rn rm s
  | .ssub8 e rd rn rm => Sys2Proof.Machine.execSsub8 e rd rn rm s
  | .qsub8 e rd rn rm => Sys2Proof.Machine.execQsub8 e rd rn rm s
  | .shsub8 e rd rn rm => Sys2Proof.Machine.execShsub8 e rd rn rm s
  | .usub8 e rd rn rm => Sys2Proof.Machine.execUsub8 e rd rn rm s
  | .uqsub8 e rd rn rm => Sys2Proof.Machine.execUqsub8 e rd rn rm s
  | .uhsub8 e rd rn rm => Sys2Proof.Machine.execUhsub8 e rd rn rm s
  | .sasx e rd rn rm => Sys2Proof.Machine.execSasx e rd rn rm s
  | .qasx e rd rn rm => Sys2Proof.Machine.execQasx e rd rn rm s
  | .shasx e rd rn rm => Sys2Proof.Machine.execShasx e rd rn rm s
  | .uasx e rd rn rm => Sys2Proof.Machine.execUasx e rd rn rm s
  | .uqasx e rd rn rm => Sys2Proof.Machine.execUqasx e rd rn rm s
  | .uhasx e rd rn rm => Sys2Proof.Machine.execUhasx e rd rn rm s
  | .ssax e rd rn rm => Sys2Proof.Machine.execSsax e rd rn rm s
  | .qsax e rd rn rm => Sys2Proof.Machine.execQsax e rd rn rm s
  | .shsax e rd rn rm => Sys2Proof.Machine.execShsax e rd rn rm s
  | .usax e rd rn rm => Sys2Proof.Machine.execUsax e rd rn rm s
  | .uqsax e rd rn rm => Sys2Proof.Machine.execUqsax e rd rn rm s
  | .uhsax e rd rn rm => Sys2Proof.Machine.execUhsax e rd rn rm s
  | .usad8 e rd rm rs => Sys2Proof.Machine.execUsad8 e rd rm rs s
  | .usada8 e rd rm rs rn => Sys2Proof.Machine.execUsada8 e rd rm rs rn s
  | .ssat e rd satImm sh imm5 rm => Sys2Proof.Machine.execSsat e rd satImm sh imm5 rm s
  | .usat e rd satImm sh imm5 rm => Sys2Proof.Machine.execUsat e rd satImm sh imm5 rm s
  | .ssat16 e rd satImm rm => Sys2Proof.Machine.execSsat16 e rd satImm rm s
  | .usat16 e rd satImm rm => Sys2Proof.Machine.execUsat16 e rd satImm rm s
  | .mul e sf rd rm rs => Sys2Proof.Machine.execMul e sf rd rm rs s
  | .mla e sf rd rm rs rn => Sys2Proof.Machine.execMla e sf rd rm rs rn s
  | .mls e rd rm rs rn => Sys2Proof.Machine.execMls e rd rm rs rn s
  | .umaal e rdLo rdHi rm rs => Sys2Proof.Machine.execUmaal e rdLo rdHi rm rs s
  | .umull e sf rdLo rdHi rm rs => Sys2Proof.Machine.execUmull e sf rdLo rdHi rm rs s
  | .umlal e sf rdLo rdHi rm rs => Sys2Proof.Machine.execUmlal e sf rdLo rdHi rm rs s
  | .smull e sf rdLo rdHi rm rs => Sys2Proof.Machine.execSmull e sf rdLo rdHi rm rs s
  | .smlal e sf rdLo rdHi rm rs => Sys2Proof.Machine.execSmlal e sf rdLo rdHi rm rs s
  | .smlaxy e x y rd rm rs rn => Sys2Proof.Machine.execSmlaxy e x y rd rm rs rn s
  | .smlawy e y rd rm rs rn => Sys2Proof.Machine.execSmlawy e y rd rm rs rn s
  | .smulwy e y rd rm rs => Sys2Proof.Machine.execSmulwy e y rd rm rs s
  | .smlalxy e x y rdLo rdHi rm rs => Sys2Proof.Machine.execSmlalxy e x y rdLo rdHi rm rs s
  | .smulxy e x y rd rm rs => Sys2Proof.Machine.execSmulxy e x y rd rm rs s
  | .smuad e x rd rm rs => Sys2Proof.Machine.execSmuad e x rd rm rs s
  | .smusd e x rd rm rs => Sys2Proof.Machine.execSmusd e x rd rm rs s
  | .smmul e x rd rm rs => Sys2Proof.Machine.execSmmul e x rd rm rs s
  | .smlad e x rd rm rs rn => Sys2Proof.Machine.execSmlad e x rd rm rs rn s
  | .smlsd e x rd rm rs rn => Sys2Proof.Machine.execSmlsd e x rd rm rs rn s
  | .smmla e x rd rm rs rn => Sys2Proof.Machine.execSmmla e x rd rm rs rn s
  | .smmls e x rd rm rs rn => Sys2Proof.Machine.execSmmls e x rd rm rs rn s
  | .smlald e x rdLo rdHi rm rs => Sys2Proof.Machine.execSmlald e x rdLo rdHi rm rs s
  | .smlsld e x rdLo rdHi rm rs => Sys2Proof.Machine.execSmlsld e x rdLo rdHi rm rs s
  | .mia c rm rs => Sys2Proof.Machine.execMia c rm rs s
  | .miaph c rm rs => Sys2Proof.Machine.execMiaph c rm rs s
  | .miaxy c x y rm rs => Sys2Proof.Machine.execMiaxy c x y rm rs s
  | .mar c rdLo rdHi => Sys2Proof.Machine.execMar c rdLo rdHi s
  | .mra c rdLo rdHi => Sys2Proof.Machine.execMra c rdLo rdHi s
  | .sdiv e rd rn rm => Sys2Proof.Machine.execSdiv e rd rn rm s
  | .udiv e rd rn rm => Sys2Proof.Machine.execUdiv e rd rn rm s
  | .clz e rd rm => Sys2Proof.Machine.execClz e rd rm s
  | .rev e rd rm => Sys2Proof.Machine.execRev e rd rm s
  | .rev16 e rd rm => Sys2Proof.Machine.execRev16 e rd rm s
  | .rbit e rd rm => Sys2Proof.Machine.execRbit e rd rm s
  | .revsh e rd rm => Sys2Proof.Machine.execRevsh e rd rm s
  | .bfc e rd lsb msb => Sys2Proof.Machine.execBfc e rd lsb msb s
  | .bfi e rd rn lsb msb => Sys2Proof.Machine.execBfi e rd rn lsb msb s
  | .sbfx e rd rn lsb widthm1 => Sys2Proof.Machine.execSbfx e rd rn lsb widthm1 s
  | .ubfx e rd rn lsb widthm1 => Sys2Proof.Machine.execUbfx e rd rn lsb widthm1 s
  | .pkhbt e rd rn rm imm5 => Sys2Proof.Machine.execPkhbt e rd rn rm imm5 s
  | .pkhtb e rd rn rm imm5 => Sys2Proof.Machine.execPkhtb e rd rn rm imm5 s
  | .sxth e rd rm rot => Sys2Proof.Machine.execSxth e rd rm rot s
  | .sxtb16 e rd rm rot => Sys2Proof.Machine.execSxtb16 e rd rm rot s
  | .sxtb e rd rm rot => Sys2Proof.Machine.execSxtb e rd rm rot s
  | .uxth e rd rm rot => Sys2Proof.Machine.execUxth e rd rm rot s
  | .uxtb16 e rd rm rot => Sys2Proof.Machine.execUxtb16 e rd rm rot s
  | .uxtb e rd rm rot => Sys2Proof.Machine.execUxtb e rd rm rot s
  | .sxtah e rd rn rm rot => Sys2Proof.Machine.execSxtah e rd rn rm rot s
  | .sxtab16 e rd rn rm rot => Sys2Proof.Machine.execSxtab16 e rd rn rm rot s
  | .sxtab e rd rn rm rot => Sys2Proof.Machine.execSxtab e rd rn rm rot s
  | .uxtah e rd rn rm rot => Sys2Proof.Machine.execUxtah e rd rn rm rot s
  | .uxtab16 e rd rn rm rot => Sys2Proof.Machine.execUxtab16 e rd rn rm rot s
  | .uxtab e rd rn rm rot => Sys2Proof.Machine.execUxtab e rd rn rm rot s
  | .sel e rd rn rm => Sys2Proof.Machine.execSel e rd rn rm s
  | .it firstcond mask => Sys2Proof.Machine.execIt firstcond mask s
  | .b t => Sys2Proof.Machine.execB t s
  | .bl t => Sys2Proof.Machine.execBl t s
  | .blxLabel t => Sys2Proof.Machine.execBlxLabel t s
  | .bx e rm => Sys2Proof.Machine.execBx e rm s
  | .blxReg e rm => Sys2Proof.Machine.execBlxReg e rm s
  | .bxj e rm => Sys2Proof.Machine.execBxj e rm s
  | .cbz i1 imm5 rn => Sys2Proof.Machine.execCbz i1 imm5 rn s
  | .cbnz i1 imm5 rn => Sys2Proof.Machine.execCbnz i1 imm5 rn s
  | .tbb rn rm => Sys2Proof.Machine.execTbb rn rm s
  | .tbh rn rm => Sys2Proof.Machine.execTbh rn rm s
  | .mrs e spsr rd => Sys2Proof.Machine.execMrs e spsr rd s
  | .msrReg e spsr mask rm => Sys2Proof.Machine.execMsrReg e spsr mask rm s
  | .msrImm c spsr mask rotate imm8 => Sys2Proof.Machine.execMsrImm c spsr mask rotate imm8 s
  | .cpsie thumb m a i1 f mode => Sys2Proof.Machine.execCpsie thumb m a i1 f mode s
  | .cpsid thumb m a i1 f mode => Sys2Proof.Machine.execCpsid thumb m a i1 f mode s
  | .cps thumb mode => Sys2Proof.Machine.execCps thumb mode s
  | .setend thumb big => Sys2Proof.Machine.execSetend thumb big s
  | .ldr e rd m => Sys2Proof.Machine.execLdr e rd m s
  | .ldrb e rd m => Sys2Proof.Machine.execLdrb e rd m s
  | .ldrsb e rd m => Sys2Proof.Machine.execLdrsb e rd m s
  | .ldrh e rd m => Sys2Proof.Machine.execLdrh e rd m s
  | .ldrsh e rd m => Sys2Proof.Machine.execLdrsh e rd m s
  | .str e rd m => Sys2Proof.Machine.execStr e rd m s
  | .strb e rd m => Sys2Proof.Machine.execStrb e rd m s
  | .strh e rd m => Sys2Proof.Machine.execStrh e rd m s
  | .ldrt e rd m => Sys2Proof.Machine.execLdrt e rd m s
  | .ldrbt e rd m => Sys2Proof.Machine.execLdrbt e rd m s
  | .ldrsbt e rd m => Sys2Proof.Machine.execLdrsbt e rd m s
  | .ldrht e rd m => Sys2Proof.Machine.execLdrht e rd m s
  | .ldrsht e rd m => Sys2Proof.Machine.execLdrsht e rd m s
  | .strt e rd m => Sys2Proof.Machine.execStrt e rd m s
  | .strbt e rd m => Sys2Proof.Machine.execStrbt e rd m s
  | .strht e rd m => Sys2Proof.Machine.execStrht e rd m s

end Sys2Proof.Machine
end

