-- ==== Sys2Proof/Machine/Fetch.lean ====
section
/-! DEFINITION. What happens before an instruction executes: the interrupt oracle (R540) and the instruction
fetch (R84, R582 steps 2 to 5). -/

namespace Sys2Proof.Machine

open Sys2Proof

/-- The asynchronous exception taken at this step, if any: FIQ, then IRQ, then the asynchronous abort, each unless
masked (R540, R582 step 2). -/
def pendingInterrupt (s : State) : Option Exc :=
  match s.cfg.interrupts[s.stepNo]? with
  | none => none
  | some ev =>
    if ev.fiq && !s.cpsr.f then some .fiq
    else if ev.irq && !s.cpsr.i then some .irq
    else if ev.abort && (!s.cfg.haveV6 || !s.cpsr.a) then some .asyncAbort
    else none

/-- A byte that is mapped and executable at the current privilege (R84). -/
def canFetch (s : State) (a : Word) : Bool :=
  match rightsAt s.cfg s.privileged a with
  | some r => r.exec
  | none => false

/-- The bytes from the PC on that can be fetched, at most four. -/
def fetchBytes (s : State) : List Byte :=
  (((touched s.pc .word).takeWhile (canFetch s)).map s.byteAt)

/-- The instruction bits at the PC (R84); `none` is a prefetch abort. -/
def fetch (s : State) : Option Code :=
  (readCode s.cpsr.t s.cfg.instrBigEndian (fetchBytes s)).map Prod.fst

/-- Sequential execution would pass 0xFFFFFFFF (R42, R582 step 4, log 27). -/
def wraps (s : State) (c : Code) : Bool := decide (4294967296 ≤ s.pc.toNat + c.size)

/-- The step has been made: the next one has the next number (R540, log 11). -/
def tick (o : Host.Outcome State Fault Refusal) : Host.Outcome State Fault Refusal :=
  match o with
  | .next s => .next { s with stepNo := s.stepNo + 1 }
  | .fault f => .fault f
  | .refused r => .refused r

/-- The bytes of an instruction with their addresses, from an address on (R84). -/
def codeCells (a : Word) : List Byte → List (Word × Byte)
  | [] => []
  | b :: bs => (a, b) :: codeCells (a + 1#32) bs

end Sys2Proof.Machine
end

