-- ==== Sys2Proof/Machine/Step.lean ====
section
/-! DEFINITION. One step of the machine (R582), and placing an instruction where the next step fetches it. -/

namespace Sys2Proof.Machine

open Sys2Proof

/-- One step (R582): the end of the run, an interrupt, or one instruction. -/
def step (s : State) : Host.Outcome State Fault Refusal :=
  if s.pc = s.cfg.haltAddress then .fault .runEnded
  else
    match pendingInterrupt s with
    | some e => tick (raiseExc e s)
    | none =>
      if s.cpsr.j then .refused .jazelleState
      else
        match fetch s with
        | none => tick (raiseExc (.prefetchAbort s.pc) s)
        | some c =>
          if wraps s c then .refused .pcWrap
          else
            match decodeCode c with
            | none => .refused .notInScope
            | some i => tick (exec i s)

/-- The state with an instruction's bits stored at the PC and CPSR.T as its instruction set needs (log 15). -/
def State.withFetchWord (s : State) (nbits w : Nat) : State :=
  let c := tableCode nbits w
  { s with
    cpsr := { s.cpsr with t := c.isThumb }
    mem := Memory.putAll s.mem (codeCells s.pc (c.bytes s.cfg.instrBigEndian)) }

end Sys2Proof.Machine
end

