-- ==== Sys2Proof/Safety.lean ====
section
/-! DEFINITION. The terms in which claims about the machine are stated: when an instruction executes, what a next
state is made of, which operands the spec allows, and the invariant of a run. None of it is used by the machine. -/

namespace Sys2Proof.Machine

open Sys2Proof

/-! ### When an instruction executes -/

/-- The condition an IT block gives the current instruction holds; outside a block it always does (R14, R421). -/
def itPasses (s : State) : Bool :=
  s.cpsr.it == 0#8 ||
    (s.cpsr.it.extractLsb' 4 4 != 15#4 && condHolds (condOf (s.cpsr.it.extractLsb' 4 4).toNat) s.cpsr)

/-- The current state is the encoding's, the 32-bit Thumb encodings exist where needed (`wide`), and the condition
holds (R14, R112, R131). -/
def runs (e : Enc) (wide : Bool) (s : State) : Bool :=
  match e with
  | .a32 c => !s.cpsr.t && condHolds c s.cpsr
  | .thumb => s.cpsr.t && (!wide || s.cfg.haveT2) && itPasses s

/-- As `runs`, but the condition fails (R14). -/
def idles (e : Enc) (wide : Bool) (s : State) : Bool :=
  match e with
  | .a32 c => !s.cpsr.t && !condHolds c s.cpsr
  | .thumb => s.cpsr.t && (!wide || s.cfg.haveT2) && s.cpsr.it != 0#8 && s.cpsr.it.extractLsb' 4 4 != 15#4 &&
      !condHolds (condOf (s.cpsr.it.extractLsb' 4 4).toNat) s.cpsr

/-- Outside an IT block, or the last instruction of one (R420). -/
def endsBlock (s : State) : Bool := s.cpsr.it &&& 7#8 == 0#8

/-- The IT state after an instruction that is not IT (R421): zero after the last of a block, else its low five bits
move up one place. -/
def itNext (e : Enc) (s : State) : BitVec 8 :=
  match e with
  | .a32 _ => s.cpsr.it
  | .thumb =>
    if s.cpsr.it &&& 7#8 = 0#8 then 0#8 else (s.cpsr.it &&& 0xE0#8) ||| ((s.cpsr.it <<< 1) &&& 0x1F#8)

/-- The PC is a multiple of 4 in ARM state, of 2 in Thumb state (R40). -/
def pcAligned (s : State) : Bool := if s.cpsr.t then s.pc.toNat % 2 == 0 else s.pc.toNat % 4 == 0

/-- Every feature of R2 is present. -/
def fullConfig (c : Config) : Bool :=
  c.haveThumb && c.haveV5 && c.haveV5E && c.haveV5J && c.haveV6 && c.haveV6K && c.haveT2 && c.haveV7 && c.haveRM &&
    c.haveXS

/-- The instruction set and condition of an instruction's encoding (R116, R121); the unconditional A32 instructions
are always executed, and Thumb encodings take their condition from the IT state. -/
def encodingOf : Instr → Enc
  | .and e _ _ _ _ => e
  | .eor e _ _ _ _ => e
  | .sub e _ _ _ _ => e
  | .rsb e _ _ _ _ => e
  | .add e _ _ _ _ => e
  | .adc e _ _ _ _ => e
  | .sbc e _ _ _ _ => e
  | .orr e _ _ _ _ => e
  | .bic e _ _ _ _ => e
  | .rsc c _ _ _ _ => .a32 c
  | .orn _ _ _ _ => .thumb
  | .tst e _ _ => e
  | .teq e _ _ => e
  | .cmp e _ _ => e
  | .cmn e _ _ => e
  | .mov e _ _ _ => e
  | .mvn e _ _ _ => e
  | .rrx e _ _ _ => e
  | .adr _ _ _ => .thumb
  | .subsPcLr _ => .thumb
  | .lsl _ _ _ _ => .thumb
  | .lsr _ _ _ _ => .thumb
  | .asr _ _ _ _ => .thumb
  | .ror _ _ _ _ => .thumb
  | .movw e _ _ => e
  | .movt e _ _ => e
  | .addw _ _ _ => .thumb
  | .subw _ _ _ => .thumb
  | .qadd e _ _ _ => e
  | .qsub e _ _ _ => e
  | .qdadd e _ _ _ => e
  | .qdsub e _ _ _ => e
  | .sadd16 e _ _ _ => e
  | .qadd16 e _ _ _ => e
  | .shadd16 e _ _ _ => e
  | .uadd16 e _ _ _ => e
  | .uqadd16 e _ _ _ => e
  | .uhadd16 e _ _ _ => e
  | .ssub16 e _ _ _ => e
  | .qsub16 e _ _ _ => e
  | .shsub16 e _ _ _ => e
  | .usub16 e _ _ _ => e
  | .uqsub16 e _ _ _ => e
  | .uhsub16 e _ _ _ => e
  | .sadd8 e _ _ _ => e
  | .qadd8 e _ _ _ => e
  | .shadd8 e _ _ _ => e
  | .uadd8 e _ _ _ => e
  | .uqadd8 e _ _ _ => e
  | .uhadd8 e _ _ _ => e
  | .ssub8 e _ _ _ => e
  | .qsub8 e _ _ _ => e
  | .shsub8 e _ _ _ => e
  | .usub8 e _ _ _ => e
  | .uqsub8 e _ _ _ => e
  | .uhsub8 e _ _ _ => e
  | .sasx e _ _ _ => e
  | .qasx e _ _ _ => e
  | .shasx e _ _ _ => e
  | .uasx e _ _ _ => e
  | .uqasx e _ _ _ => e
  | .uhasx e _ _ _ => e
  | .ssax e _ _ _ => e
  | .qsax e _ _ _ => e
  | .shsax e _ _ _ => e
  | .usax e _ _ _ => e
  | .uqsax e _ _ _ => e
  | .uhsax e _ _ _ => e
  | .usad8 e _ _ _ => e
  | .usada8 e _ _ _ _ => e
  | .ssat e _ _ _ _ _ => e
  | .usat e _ _ _ _ _ => e
  | .ssat16 e _ _ _ => e
  | .usat16 e _ _ _ => e
  | .mul e _ _ _ _ => e
  | .mla e _ _ _ _ _ => e
  | .mls e _ _ _ _ => e
  | .umaal e _ _ _ _ => e
  | .umull e _ _ _ _ _ => e
  | .umlal e _ _ _ _ _ => e
  | .smull e _ _ _ _ _ => e
  | .smlal e _ _ _ _ _ => e
  | .smlaxy e _ _ _ _ _ _ => e
  | .smlawy e _ _ _ _ _ => e
  | .smulwy e _ _ _ _ => e
  | .smlalxy e _ _ _ _ _ _ => e
  | .smulxy e _ _ _ _ _ => e
  | .smuad e _ _ _ _ => e
  | .smusd e _ _ _ _ => e
  | .smmul e _ _ _ _ => e
  | .smlad e _ _ _ _ _ => e
  | .smlsd e _ _ _ _ _ => e
  | .smmla e _ _ _ _ _ => e
  | .smmls e _ _ _ _ _ => e
  | .smlald e _ _ _ _ _ => e
  | .smlsld e _ _ _ _ _ => e
  | .mia c _ _ => .a32 c
  | .miaph c _ _ => .a32 c
  | .miaxy c _ _ _ _ => .a32 c
  | .mar c _ _ => .a32 c
  | .mra c _ _ => .a32 c
  | .sdiv e _ _ _ => e
  | .udiv e _ _ _ => e
  | .clz e _ _ => e
  | .rev e _ _ => e
  | .rev16 e _ _ => e
  | .rbit e _ _ => e
  | .revsh e _ _ => e
  | .bfc e _ _ _ => e
  | .bfi e _ _ _ _ => e
  | .sbfx e _ _ _ _ => e
  | .ubfx e _ _ _ _ => e
  | .pkhbt e _ _ _ _ => e
  | .pkhtb e _ _ _ _ => e
  | .sxth e _ _ _ => e
  | .sxtb16 e _ _ _ => e
  | .sxtb e _ _ _ => e
  | .uxth e _ _ _ => e
  | .uxtb16 e _ _ _ => e
  | .uxtb e _ _ _ => e
  | .sxtah e _ _ _ _ => e
  | .sxtab16 e _ _ _ _ => e
  | .sxtab e _ _ _ _ => e
  | .uxtah e _ _ _ _ => e
  | .uxtab16 e _ _ _ _ => e
  | .uxtab e _ _ _ _ => e
  | .sel e _ _ _ => e
  | .it _ _ => .thumb
  | .b (.a32 c _) => .a32 c
  | .b (.t3 _ _ _ _ _ _) => .thumb
  | .b (.t4 _ _ _ _ _) => .thumb
  | .bl (.a32 c _) => .a32 c
  | .bl (.t32 _ _ _ _ _) => .thumb
  | .blxLabel (.a32 _ _) => .a32 .al
  | .blxLabel (.t32 _ _ _ _ _) => .thumb
  | .bx e _ => e
  | .blxReg e _ => e
  | .bxj e _ => e
  | .cbz _ _ _ => .thumb
  | .cbnz _ _ _ => .thumb
  | .tbb _ _ => .thumb
  | .tbh _ _ => .thumb
  | .mrs e _ _ => e
  | .msrReg e _ _ _ => e
  | .msrImm c _ _ _ _ => .a32 c
  | .cpsie thumb _ _ _ _ _ => encOf thumb
  | .cpsid thumb _ _ _ _ _ => encOf thumb
  | .cps thumb _ => encOf thumb
  | .setend thumb _ => encOf thumb
  | .ldr e _ _ => e
  | .ldrb e _ _ => e
  | .ldrsb e _ _ => e
  | .ldrh e _ _ => e
  | .ldrsh e _ _ => e
  | .str e _ _ => e
  | .strb e _ _ => e
  | .strh e _ _ => e
  | .ldrt e _ _ => e
  | .ldrbt e _ _ => e
  | .ldrsbt e _ _ => e
  | .ldrht e _ _ => e
  | .ldrsht e _ _ => e
  | .strt e _ _ => e
  | .strbt e _ _ => e
  | .strht e _ _ => e

/-- The instructions a Thumb encoding of which may not stand in an IT block (R421). -/
def notInIt : Instr → Bool
  | .it _ _ | .cbz _ _ _ | .cbnz _ _ _ | .tbb _ _ | .tbh _ _ | .cps _ _ | .cpsie _ _ _ _ _ _ | .cpsid _ _ _ _ _ _
  | .setend _ _ | .b (.t3 _ _ _ _ _ _) => true
  | _ => false

/-- The branches, which may stand only last in an IT block (R420), with the exception return (R214). -/
def lastInIt : Instr → Bool
  | .b _ | .bl _ | .blxLabel _ | .bx _ _ | .blxReg _ _ | .bxj _ _ | .subsPcLr _ => true
  | _ => false

/-- The instructions that may write the PC with something other than the next address (R43). -/
def writesPc : Instr → Bool
  | .b _ | .bl _ | .blxLabel _ | .bx _ _ | .blxReg _ _ | .bxj _ _ | .subsPcLr _ | .cbz _ _ _ | .cbnz _ _ _ | .tbb _ _
  | .tbh _ _ => true
  | .sub (.a32 _) true rd rn (.immA _ _) => rd == 15#4 && rn == 14#4
  | _ => false

/-- The store instructions (R485 to R487, R493 to R495). -/
def isStore : Instr → Bool
  | .str _ _ _ | .strb _ _ _ | .strh _ _ _ | .strt _ _ _ | .strbt _ _ _ | .strht _ _ _ => true
  | _ => false

/-- The instructions that write the accumulator (R60). -/
def writesAc : Instr → Bool
  | .mia _ _ _ | .miaph _ _ _ | .miaxy _ _ _ _ _ | .mar _ _ _ => true
  | _ => false

/-- The instructions that write the SPSR (R56). -/
def writesSpsr : Instr → Bool
  | .msrReg _ spsr _ _ => spsr
  | .msrImm _ spsr _ _ _ => spsr
  | _ => false

/-- The size of an instruction in bytes (R111). -/
def sizeOf2 : Instr → Word
  | .it _ _ | .cbz _ _ _ | .cbnz _ _ _ | .bx .thumb _ | .blxReg .thumb _ | .setend true _ => 2#32
  | _ => 4#32

/-! ### What a next state is made of -/

/-- The contents of a physical register after the writes `w`, each naming a register of mode `m` (R31). -/
def written (m : Mode) (f : RegFile) (w : List (Reg × Word)) (q : PReg) : Word :=
  match w.find? (fun x => physReg m x.1 == some q) with
  | some x => x.2
  | none => f.get q

/-- `t` is `s` with the registers `w` written, this CPSR and PC, this accumulator and count of drawn bits, and these
bytes of memory; everything else of the state is unchanged. -/
def Becomes (s t : State) (w : List (Reg × Word)) (p : Cpsr) (pc : Word) (ac : BitVec 40) (draws : Nat)
    (bytes : Word → Byte) : Prop :=
  (∀ q : PReg, t.regs.get q = written s.cpsr.mode s.regs w q) ∧ t.cpsr = p ∧ t.pc = pc ∧ t.ac = ac ∧
    t.draws = draws ∧ (∀ a : Word, t.byteAt a = bytes a) ∧ t.cfg = s.cfg ∧ t.spsrFiq = s.spsrFiq ∧
    t.spsrIrq = s.spsrIrq ∧ t.spsrSvc = s.spsrSvc ∧ t.spsrAbt = s.spsrAbt ∧ t.spsrUnd = s.spsrUnd ∧
    t.stepNo = s.stepNo

/-- The instruction completes: registers `w` and CPSR `p` (with the IT state advanced), the next address in the PC,
and nothing else. -/
def Does (i : Instr) (s : State) (e : Enc) (w : List (Reg × Word)) (p : Cpsr) : Prop :=
  ∃ t, exec i s = .next t ∧
    Becomes s t w { p with it := itNext e s } (s.pc + sizeOf2 i) s.ac s.draws s.byteAt

/-- The instruction is refused for one of its register operands (R113). -/
def RefusesOperand (i : Instr) (s : State) : Prop :=
  ∃ r, exec i s = .refused r ∧ r ∈ [Refusal.pcAsDestination, .pcOperand, .spOperand, .sameRegister]

/-- The instruction is refused for a register operand of its addressing form (R113, R476). -/
def RefusesAddress (i : Instr) (s : State) : Prop :=
  ∃ r, exec i s = .refused r ∧
    r ∈ [Refusal.pcAsDestination, .pcOperand, .spOperand, .baseIsDestination, .baseIsIndex]

/-- Absent feature: not available. Otherwise, where the instruction executes: allowed operands give the effect, others a
refusal. -/
def Gives (i : Instr) (s : State) (feature allowed : Bool) (w : List (Reg × Word)) (p : Cpsr) : Prop :=
  (feature = false → exec i s = .refused .notAvailable) ∧
  (feature = true → runs (encodingOf i) true s = true → allowed = true → Does i s (encodingOf i) w p) ∧
  (feature = true → runs (encodingOf i) true s = true → allowed = false → RefusesOperand i s)

/-- The same for a data-processing instruction: `f` gives the writes and the CPSR from the value and the carry of
`<Operand2>`; an immediate that has no value refuses (R135, R136). -/
def GivesOp2 (i : Instr) (s : State) (feature allowed : Bool) (o : Op2)
    (f : Word → Bool → List (Reg × Word) × Cpsr) : Prop :=
  (feature = false → exec i s = .refused .notAvailable) ∧
  (feature = true → runs (encodingOf i) true s = true → allowed = true → ∀ v c, op2 s o = .ok (v, c) →
    Does i s (encodingOf i) (f v c).1 (f v c).2) ∧
  (feature = true → runs (encodingOf i) true s = true → allowed = true → (∀ v, op2 s o ≠ .ok v) →
    exec i s = .refused .unpredictableImmediate) ∧
  (feature = true → runs (encodingOf i) true s = true → allowed = false → RefusesOperand i s)

/-! ### Which operands the spec allows (R113, R476) -/

/-- No R15 anywhere and, in Thumb state, no R13. -/
def plainOk (e : Enc) (rs : List Reg) : Bool := rs.all fun r => r != 15#4 && !(e.isThumb && r == 13#4)

/-- Data processing: `rd` and `rn` are the registers named in those positions; `spD`, `spN`, `spM` say where R13 is
allowed in Thumb state. -/
def dpOk (e : Enc) (rd rn : List Reg) (o : Op2) (spD spN spM : Bool) : Bool :=
  rd.all (fun r => r != 15#4 && (!e.isThumb || spD || r != 13#4)) &&
  (rn ++ op2Regs o).all (fun r => r != 15#4 || (!e.isThumb && !op2RegReg o)) &&
  rn.all (fun r => !e.isThumb || spN || r != 13#4) && (op2Regs o).all (fun r => !e.isThumb || spM || r != 13#4)

/-- Loads and stores: `p` is the base, the index and whether the base is written. -/
def memOk (c : Config) (e : Enc) (load spD : Bool) (rd : Reg) (p : Option Reg × Option Reg × Bool) : Bool :=
  rd != 15#4 && (!e.isThumb || spD || rd != 13#4) &&
  (p.1 != some 15#4 || (load && !e.isThumb && !p.2.2)) &&
  (!p.2.2 || p.1 != some rd) && p.2.1 != some 15#4 && (!e.isThumb || p.2.1 != some 13#4) &&
  (!p.2.2 || c.haveV6 || p.2.1.isNone || p.1 != p.2.1)

/-! ### Numbers -/

/-- The largest and smallest `w`-bit signed values bound `x`. -/
def clampS (w : Nat) (x : Int) : Int := max (-(2 ^ (w - 1))) (min x (2 ^ (w - 1) - 1))

/-- The `w`-bit unsigned values bound `x`. -/
def clampU (w : Nat) (x : Int) : Int := max 0 (min x (2 ^ w - 1))

/-- Not a signed 32-bit value. -/
def outside (x : Int) : Bool := decide (x < -2147483648 ∨ 2147483647 < x)

/-- Flags N and Z of a result. -/
def withNZ (p : Cpsr) (r : Word) : Cpsr := { p with n := decide (r.toInt < 0), z := decide (r.toNat = 0) }

/-- Q set where `b`, otherwise as it was (R52). -/
def withQ (p : Cpsr) (b : Bool) : Cpsr := if b then { p with q := true } else p

/-- The signed low or high halfword. -/
def halfInt (v : Word) (top : Bool) : Int := (((if top then v >>> 16 else v).setWidth 16 : BitVec 16)).toInt

/-- Byte `i`. -/
def byteNat (v : Word) (i : Nat) : Nat := v.toNat / 256 ^ i % 256

/-- The low and the high word of a 64-bit result, for the pair `lo`, `hi`. -/
def pairWrites (lo hi : Reg) (r : BitVec 64) : List (Reg × Word) :=
  [(lo, r.setWidth 32), (hi, (r >>> 32).setWidth 32)]

/-- A lane as an integer, signed or unsigned (R230). -/
def laneInt {k : Nat} (sg : Bool) (v : BitVec k) : Int := if sg then v.toInt else (v.toNat : Int)

/-- The lane result of each prefix (R230). -/
def laneOut (p : ParPrefix) (w : Nat) (x : Int) : BitVec w :=
  match p with
  | .s | .u => BitVec.ofInt w x
  | .q => BitVec.ofInt w (clampS w x)
  | .uq => BitVec.ofInt w (clampU w x)
  | .sh | .uh => BitVec.ofInt w (x.fdiv 2)

/-- The instruction of a prefix and a halfword operation. -/
def par16 (p : ParPrefix) (op : HalfOp) : Enc → Reg → Reg → Reg → Instr :=
  match p, op with
  | .s, .add16 => .sadd16
  | .q, .add16 => .qadd16
  | .sh, .add16 => .shadd16
  | .u, .add16 => .uadd16
  | .uq, .add16 => .uqadd16
  | .uh, .add16 => .uhadd16
  | .s, .sub16 => .ssub16
  | .q, .sub16 => .qsub16
  | .sh, .sub16 => .shsub16
  | .u, .sub16 => .usub16
  | .uq, .sub16 => .uqsub16
  | .uh, .sub16 => .uhsub16
  | .s, .asx => .sasx
  | .q, .asx => .qasx
  | .sh, .asx => .shasx
  | .u, .asx => .uasx
  | .uq, .asx => .uqasx
  | .uh, .asx => .uhasx
  | .s, .sax => .ssax
  | .q, .sax => .qsax
  | .sh, .sax => .shsax
  | .u, .sax => .usax
  | .uq, .sax => .uqsax
  | .uh, .sax => .uhsax

/-- The instruction of a prefix and a byte operation. -/
def par8 (p : ParPrefix) (sub : Bool) : Enc → Reg → Reg → Reg → Instr :=
  match p, sub with
  | .s, false => .sadd8
  | .q, false => .qadd8
  | .sh, false => .shadd8
  | .u, false => .uadd8
  | .uq, false => .uqadd8
  | .uh, false => .uhadd8
  | .s, true => .ssub8
  | .q, true => .qsub8
  | .sh, true => .shsub8
  | .u, true => .usub8
  | .uq, true => .uqsub8
  | .uh, true => .uhsub8

/-! ### Memory in terms of bytes -/

/-- The byte is not mapped, or does not give the right at this privilege: it faults (R81, R525). -/
def lacks (c : Config) (priv : Bool) (right : Rights → Bool) (a : Word) : Bool :=
  match rightsAt c priv a with
  | some r => !right r
  | none => true

/-- `b` is the lowest address with the property. -/
def Lowest (p : Word → Prop) (b : Word) : Prop := p b ∧ ∀ x, p x → b.toNat ≤ x.toNat

/-- Every byte of the access gives the right, and the address is aligned or need not be (R81, R85). -/
def allowsAccess (s : State) (priv : Bool) (right : Rights → Bool) (a : Word) (w : Width) : Bool :=
  (a.toNat % w.bytes == 0 || s.cfg.unalignedPolicy == .v6) &&
    (List.range w.bytes).all fun k => !lacks s.cfg priv right (a + BitVec.ofNat 32 k)

/-- Some byte of the access is executable at either privilege level (R94, log 18). -/
def touchesCode (s : State) (a : Word) (w : Width) : Bool :=
  (List.range w.bytes).any fun k => executable s.cfg (a + BitVec.ofNat 32 k)

/-- The number the bytes of an access hold, in the byte order of data (R81, R83). -/
def numberAt (s : State) (a : Word) (w : Width) : Nat :=
  ((List.range w.bytes).map fun k =>
    (s.byteAt (a + BitVec.ofNat 32 (if s.bigEndian then w.bytes - 1 - k else k))).toNat * 256 ^ k).sum

/-- The value a load writes (R470). -/
def loadResult (s : State) (a : Word) (w : Width) (sg : Bool) : Word :=
  if sg then BitVec.ofInt 32 (BitVec.ofNat (8 * w.bytes) (numberAt s a w)).toInt
  else BitVec.ofNat 32 (numberAt s a w)

/-- The byte at `b` after `v` is stored at `a` (R82, R83). -/
def byteAfterStore (s : State) (a : Word) (w : Width) (v : Word) (b : Word) : Byte :=
  match (List.range w.bytes).find? (fun k => a + BitVec.ofNat 32 k == b) with
  | some k => (v >>> (8 * (if s.bigEndian then w.bytes - 1 - k else k))).setWidth 8
  | none => s.byteAt b

/-- The instruction aborts: an access at `a` of width `w` raises a data abort at one of its bytes (R522, R524). -/
def Aborts (i : Instr) (s : State) (a : Word) (w : Width) (write : Bool) : Prop :=
  ∃ k b, b ∈ touched a w ∧ exec i s = raiseExc (.dataAbort k b write) s

/-- A load from the address of its addressing form. -/
def GivesLoad (i : Instr) (s : State) (feature allowed priv : Bool) (rd : Reg) (a : Address) (w : Width) (sg : Bool) :
    Prop :=
  (feature = false → exec i s = .refused .notAvailable) ∧
  (feature = true → runs (encodingOf i) true s = true → allowed = false → RefusesAddress i s) ∧
  (feature = true → runs (encodingOf i) true s = true → allowed = true →
    (allowsAccess s priv Rights.read a.addr w = true →
      Does i s (encodingOf i) ((rd, loadResult s a.addr w sg) :: a.writeback.toList) s.cpsr) ∧
    (allowsAccess s priv Rights.read a.addr w = false → Aborts i s a.addr w false))

/-- A store to the address of its addressing form. -/
def GivesStore (i : Instr) (s : State) (feature allowed priv : Bool) (rd : Reg) (a : Address) (w : Width) : Prop :=
  (feature = false → exec i s = .refused .notAvailable) ∧
  (feature = true → runs (encodingOf i) true s = true → allowed = false → RefusesAddress i s) ∧
  (feature = true → runs (encodingOf i) true s = true → allowed = true →
    (allowsAccess s priv Rights.write a.addr w = true → touchesCode s a.addr w = false →
      ∃ t, exec i s = .next t ∧
        Becomes s t a.writeback.toList { s.cpsr with it := itNext (encodingOf i) s } (s.pc + sizeOf2 i) s.ac s.draws
          (byteAfterStore s a.addr w (s.reg rd))) ∧
    (allowsAccess s priv Rights.write a.addr w = true → touchesCode s a.addr w = true →
      exec i s = .refused .storeToCode) ∧
    (allowsAccess s priv Rights.write a.addr w = false → Aborts i s a.addr w true))

/-! ### Branches -/

/-- A branch completes: it writes the registers `w`, T and the PC. -/
def Branches (i : Instr) (s : State) (w : List (Reg × Word)) (t' : Bool) (pc : Word) : Prop :=
  ∃ t, exec i s = .next t ∧
    Becomes s t w { s.cpsr with t := t', it := itNext (encodingOf i) s } pc s.ac s.draws s.byteAt

/-- A branch to a register value `v` (R420): bit 0 selects Thumb state; an ARM target is a multiple of 4 (log 21). -/
def BranchesTo (i : Instr) (s : State) (w : List (Reg × Word)) (v : Word) : Prop :=
  if v.toNat % 2 = 1 ∧ s.cfg.haveThumb = true then Branches i s w true (v - 1#32)
  else if v.toNat / 2 % 2 = 1 then exec i s = .refused .misalignedBranchTarget
  else Branches i s w (if v.toNat % 2 = 1 then s.cpsr.t else false) (v - BitVec.ofNat 32 (v.toNat % 2))

/-- The value of the link register: the next address, plus one in Thumb state (R420). -/
def linkOf (s : State) (size : Word) : Word := if s.cpsr.t then (s.pc + size) ||| 1#32 else s.pc + size

/-! ### The invariant of a run -/

/-- Memory is canonical, the parameters fit together, the PC is aligned (R40), ARM state has no IT state (R54), the
machine is in ARM or Thumb state (R44), and a CPSR field the processor lacks is zero (R50). -/
def RunInv (s : State) : Prop :=
  Memory.wf s.mem = true ∧ s.cfg.wf = true ∧ pcAligned s = true ∧ (s.cpsr.t = false → s.cpsr.it = 0#8) ∧
    s.cpsr.j = false ∧ (s.cpsr.t = true → s.cfg.haveThumb = true) ∧ (s.cfg.haveT2 = false → s.cpsr.it = 0#8) ∧
    (s.cfg.haveV5E = false → s.cpsr.q = false) ∧
    (s.cfg.haveV6 = false → s.cpsr.ge = 0#4 ∧ s.cpsr.e = false ∧ s.cpsr.a = false)

end Sys2Proof.Machine
end

