-- ==== Sys2Proof/Certificates/Slice0/Obligations.lean ====
section
/-! DEFINITION. The statements about the machine that are to be proved. -/

open Sys2Proof Sys2Proof.Machine

/-- R9: the sum, its carry and its overflow; subtraction with its no-borrow carry. -/
def Obligations.AddWithCarryFlags : Prop :=
  ∀ (a b : Word) (cin : Bool),
    (addWithCarry a b cin).1 = a + b + (if cin then 1#32 else 0#32) ∧
    ((addWithCarry a b cin).2.1 = true ↔ 2 ^ 32 ≤ a.toNat + b.toNat + cin.toNat) ∧
    ((addWithCarry a b cin).2.2 = true ↔
      a.toInt + b.toInt + cin.toNat < -2147483648 ∨ 2147483647 < a.toInt + b.toInt + cin.toNat) ∧
    (addWithCarry a (~~~b) cin).1 = a - b - (if cin then 0#32 else 1#32) ∧
    ((addWithCarry a (~~~b) true).2.1 = true ↔ b.toNat ≤ a.toNat)

/-- R10: every bit of the result of the five shifts, and the carry, for every amount. -/
def Obligations.ShiftWithCarry : Prop :=
  ∀ (v : Word) (cin : Bool),
    (∀ ty, shiftC v ty 0 cin = (v, cin)) ∧
    (∀ n, 0 < n →
      (∀ i < 32, (shiftC v .lsl n cin).1.getLsbD i = (decide (n ≤ i) && v.getLsbD (i - n))) ∧
      (shiftC v .lsl n cin).2 = (decide (n ≤ 32) && v.getLsbD (32 - n)) ∧
      (∀ i < 32, (shiftC v .lsr n cin).1.getLsbD i = v.getLsbD (i + n)) ∧
      (shiftC v .lsr n cin).2 = v.getLsbD (n - 1) ∧
      (∀ i < 32, (shiftC v .asr n cin).1.getLsbD i = v.getLsbD (min (i + n) 31)) ∧
      (shiftC v .asr n cin).2 = v.getLsbD (min (n - 1) 31) ∧
      (∀ i < 32, (shiftC v .ror n cin).1.getLsbD i = v.getLsbD ((i + n) % 32)) ∧
      (shiftC v .ror n cin).2 = v.getLsbD ((n + 31) % 32)) ∧
    (∀ i < 31, (rrxC v cin).1.getLsbD i = v.getLsbD (i + 1)) ∧ (rrxC v cin).1.getLsbD 31 = cin ∧
    (rrxC v cin).2 = v.getLsbD 0

/-- R11: both saturations give the nearest value in range and report whether they changed the value. -/
def Obligations.Saturation : Prop :=
  ∀ (i : Int) (n : Nat),
    (1 ≤ n → (signedSatQ i n).1 = clampS n i ∧ ((signedSatQ i n).2 = true ↔ clampS n i ≠ i)) ∧
    (unsignedSatQ i n).1 = clampU n i ∧ ((unsignedSatQ i n).2 = true ↔ clampU n i ≠ i)

/-- R131: the fifteen conditions by their encoding; 1111 is none; a condition and its inverse differ in bit 0. -/
def Obligations.ConditionTable : Prop :=
  ∀ (p : Cpsr),
    (condHolds (condOf 0) p = true ↔ p.z = true) ∧ (condHolds (condOf 2) p = true ↔ p.c = true) ∧
    (condHolds (condOf 4) p = true ↔ p.n = true) ∧ (condHolds (condOf 6) p = true ↔ p.v = true) ∧
    (condHolds (condOf 8) p = true ↔ p.c = true ∧ p.z = false) ∧ (condHolds (condOf 10) p = true ↔ p.n = p.v) ∧
    (condHolds (condOf 12) p = true ↔ p.z = false ∧ p.n = p.v) ∧ condHolds (condOf 14) p = true ∧
    (∀ k < 7, condHolds (condOf (2 * k + 1)) p = !condHolds (condOf (2 * k)) p) ∧ condOfBits 15#4 = none ∧
    (∀ k < 15, condOfBits (BitVec.ofNat 4 k) = some (condOf k))

/-- R134 to R138: the value and the carry of every form of Operand2: ARM immediates, Thumb immediates, constant shifts with RRX, register shifts. -/
def Obligations.Operand2Values : Prop :=
  ∀ (s : State) (rm rs : Reg) (imm5 : BitVec 5) (ty : ShiftType) (rotate : BitVec 4) (imm8 : BitVec 8) (i : BitVec 12),
    let cin := s.cpsr.c
    let b := i.toNat % 256
    let k := i.toNat / 256
    let turned := BitVec.ofNat 32 ((128 + i.toNat % 128) * 2 ^ (32 - i.toNat / 128))
    let five := imm5.toNat
    (∃ v c, op2 s (.immA rotate imm8) = .ok (v, c) ∧
      (∀ j < 32, v.getLsbD j = (imm8.setWidth 32 : Word).getLsbD ((j + 2 * rotate.toNat) % 32)) ∧
      c = if rotate = 0#4 then cin else v.getLsbD 31) ∧
    (k = 0 → op2 s (.immT i) = .ok (BitVec.ofNat 32 b, cin)) ∧
    (k = 1 → b ≠ 0 → op2 s (.immT i) = .ok (BitVec.ofNat 32 (b * 65537), cin)) ∧
    (k = 2 → b ≠ 0 → op2 s (.immT i) = .ok (BitVec.ofNat 32 (b * 16777472), cin)) ∧
    (k = 3 → b ≠ 0 → op2 s (.immT i) = .ok (BitVec.ofNat 32 (b * 16843009), cin)) ∧
    (1 ≤ k → k ≤ 3 → b = 0 → op2 s (.immT i) = .error (.refuse .unpredictableImmediate)) ∧
    (4 ≤ k → op2 s (.immT i) = .ok (turned, turned.getLsbD 31)) ∧
    op2 s (.reg rm .lsl imm5) = .ok (shiftC (s.reg rm) .lsl five cin) ∧
    op2 s (.reg rm .lsr imm5) = .ok (shiftC (s.reg rm) .lsr (if five = 0 then 32 else five) cin) ∧
    op2 s (.reg rm .asr imm5) = .ok (shiftC (s.reg rm) .asr (if five = 0 then 32 else five) cin) ∧
    op2 s (.reg rm .ror imm5) =
      .ok (if five = 0 then rrxC (s.reg rm) cin else shiftC (s.reg rm) .ror five cin) ∧
    op2 s (.regReg rm ty rs) = .ok (shiftC (s.reg rm) ty ((s.reg rs).toNat % 256) cin)

/-- R31, R41: a general register written is read back, no other changes; which modes share a register; what R15 reads as. -/
def Obligations.RegisterBanks : Prop :=
  (∀ (s : State) (i j : Reg) (v : Word), i ≠ 15#4 →
    (s.setReg i v).reg i = v ∧ (i ≠ j → (s.setReg i v).reg j = s.reg j) ∧
    (∀ q, some q ≠ physReg s.cpsr.mode i → (s.setReg i v).regs.get q = s.regs.get q) ∧
    { s.setReg i v with regs := s.regs } = s) ∧
  (∀ (m k : Mode) (i : Reg), i ≠ 15#4 →
    (physReg m i = physReg k i ↔
      i.toNat < 8 ∨ (i.toNat < 13 ∧ (m = .fiq ↔ k = .fiq)) ∨
      (13 ≤ i.toNat ∧ (m = k ∨ (m = .usr ∧ k = .sys) ∨ (m = .sys ∧ k = .usr))))) ∧
  (∀ s : State, s.reg 15#4 = s.pc + (if s.cpsr.t then 4#32 else 8#32))

/-- R81 to R83: where each byte of a value goes and comes from in both byte orders, and a stored value is loaded back, in a memory of canonical form (log 9). -/
def Obligations.StoredBytesReadBack : Prop :=
  ∀ (s : State) (a : Word) (w : Width) (v : Word),
    s.loadValue a w = BitVec.ofNat 32 (numberAt s a w) ∧
    (Memory.wf s.mem = true →
      (∀ b, (s.storeValue a w v).byteAt b = byteAfterStore s a w v b) ∧
      ((s.storeValue a w v).loadValue a w).toNat = v.toNat % 2 ^ (8 * w.bytes)) ∧
    { s.storeValue a w v with mem := s.mem } = s ∧
    (s.bigEndian = true ↔ (if s.cfg.haveV6 then s.cpsr.e else s.cfg.dataBigEndianAtReset) = true)

/-- R81, R82, R85, R522, R94: alignment, then translation, then permission, with the lowest faulting byte's address (translation and permission together: log 19); a store to code is refused last (log 18). -/
def Obligations.AccessChecks : Prop :=
  ∀ (s : State) (priv : Bool) (a : Word) (w : Width) (v : Word),
    (allowsAccess s priv Rights.read a w = true → memRead s priv a w = .ok (s.loadValue a w)) ∧
    (allowsAccess s priv Rights.write a w = true → memWrite s priv a w v =
      if touchesCode s a w then .error (.refuse .storeToCode) else .ok (s.storeValue a w v)) ∧
    (a.toNat % w.bytes ≠ 0 → s.cfg.unalignedPolicy = .fault →
      memRead s priv a w = .error (.raise (.dataAbort .alignment a false)) ∧
      memWrite s priv a w v = .error (.raise (.dataAbort .alignment a true))) ∧
    ((a.toNat % w.bytes = 0 ∨ s.cfg.unalignedPolicy = .v6) →
      let faults (right : Rights → Bool) (x : Word) : Prop :=
        (∃ k < w.bytes, x = a + BitVec.ofNat 32 k) ∧ lacks s.cfg priv right x = true
      let kind : AbortKind :=
        if ∃ k < w.bytes, rightsAt s.cfg priv (a + BitVec.ofNat 32 k) = none then .translation else .permission
      ∀ b, (Lowest (faults Rights.read) b → memRead s priv a w = .error (.raise (.dataAbort kind b false))) ∧
        (Lowest (faults Rights.write) b → memWrite s priv a w v = .error (.raise (.dataAbort kind b true))))

/-- R471 to R475, R488: the address accessed and the write-back of every addressing form. -/
def Obligations.AddressingForms : Prop :=
  ∀ (s : State) (add : Bool) (rn rm : Reg) (i12 : BitVec 12) (i8 : BitVec 8) (ty : ShiftType) (i5 : BitVec 5)
    (i2 : BitVec 2) (off : Word),
    let b := if rn = 15#4 then (if s.cpsr.t then s.pc + 4#32 else s.pc + 8#32) &&& ~~~3#32 else s.reg rn
    let move (x : Word) : Word := if add then b + x else b - x
    let m12 := move (BitVec.ofNat 32 i12.toNat)
    let m8 := move (BitVec.ofNat 32 i8.toNat)
    (address s (.aImm .offset add rn i12) = ⟨m12, none⟩ ∧ address s (.aImm .pre add rn i12) = ⟨m12, some (rn, m12)⟩ ∧
      address s (.aImm .post add rn i12) = ⟨b, some (rn, m12)⟩) ∧
    (address s (.aImm8 .offset add rn i8) = ⟨m8, none⟩ ∧ address s (.aImm8 .pre add rn i8) = ⟨m8, some (rn, m8)⟩ ∧
      address s (.aImm8 .post add rn i8) = ⟨b, some (rn, m8)⟩) ∧
    (op2 s (.reg rm ty i5) = .ok (off, (shiftConst (s.reg rm) ty i5 s.cpsr.c).2) →
      address s (.aReg .offset add rn rm ty i5) = ⟨move off, none⟩ ∧
      address s (.aReg .pre add rn rm ty i5) = ⟨move off, some (rn, move off)⟩ ∧
      address s (.aReg .post add rn rm ty i5) = ⟨b, some (rn, move off)⟩ ∧
      (rn ≠ 15#4 → addressT s (.aReg add rn rm ty i5) = ⟨b, some (rn, move off)⟩)) ∧
    (address s (.aReg0 .offset add rn rm) = ⟨move (s.reg rm), none⟩ ∧
      address s (.aReg0 .pre add rn rm) = ⟨move (s.reg rm), some (rn, move (s.reg rm))⟩ ∧
      address s (.aReg0 .post add rn rm) = ⟨b, some (rn, move (s.reg rm))⟩) ∧
    address s (.tLit add i12) =
      ⟨(let p := (if s.cpsr.t then s.pc + 4#32 else s.pc + 8#32) &&& ~~~3#32
        if add then p + BitVec.ofNat 32 i12.toNat else p - BitVec.ofNat 32 i12.toNat), none⟩ ∧
    (rn ≠ 15#4 →
      address s (.tImm12 rn i12) = ⟨b + BitVec.ofNat 32 i12.toNat, none⟩ ∧
      address s (.tImm8 .offset add rn i8) = ⟨m8, none⟩ ∧ address s (.tImm8 .pre add rn i8) = ⟨m8, some (rn, m8)⟩ ∧
      address s (.tImm8 .post add rn i8) = ⟨b, some (rn, m8)⟩ ∧
      address s (.tReg rn rm i2) = ⟨b + s.reg rm * BitVec.ofNat 32 (2 ^ i2.toNat), none⟩ ∧
      addressT s (.aImm add rn i12) = ⟨b, some (rn, m12)⟩ ∧ addressT s (.aImm8 add rn i8) = ⟨b, some (rn, m8)⟩ ∧
      addressT s (.aReg0 add rn rm) = ⟨b, some (rn, move (s.reg rm))⟩ ∧
      addressT s (.tImm8 rn i8) = ⟨b + BitVec.ofNat 32 i8.toNat, none⟩)

/-- R582: where the bytes at the PC can be fetched and decode to an instruction, step is exec of it, with the step counted. -/
def Obligations.StepRunsDecoded : Prop :=
  ∀ (s : State) (c : Code) (i : Instr),
    s.pc ≠ s.cfg.haltAddress → pendingInterrupt s = none → s.cpsr.j = false →
    (∀ k < c.size, canFetch s (s.pc + BitVec.ofNat 32 k) = true) →
    (∀ k < c.size, (c.bytes s.cfg.instrBigEndian)[k]? = some (s.byteAt (s.pc + BitVec.ofNat 32 k))) →
    readCode s.cpsr.t s.cfg.instrBigEndian (c.bytes s.cfg.instrBigEndian) = some (c, []) →
    s.pc.toNat + c.size < 2 ^ 32 → decodeCode c = some i →
    step s = match exec i s with
      | .next t => .next { t with stepNo := s.stepNo + 1 }
      | .fault f => .fault f
      | .refused r => .refused r

/-- R540, R582: before the fetch, FIQ, then IRQ, then the asynchronous abort, each unless masked; the two trap models (the end of the list of events is log 28). -/
def Obligations.InterruptPriority : Prop :=
  ∀ (s : State) (ev : AsyncEvents), s.pc ≠ s.cfg.haltAddress → s.cfg.interrupts[s.stepNo]? = some ev →
    let taken (x : Exc) : Prop :=
      (s.cfg.trapModel = .fault → step s = .fault (.exception x s.pc)) ∧
      (s.cfg.trapModel = .classic → step s = .next { takeException x s with stepNo := s.stepNo + 1 })
    (ev.fiq = true → s.cpsr.f = false → taken .fiq) ∧
    ((ev.fiq = false ∨ s.cpsr.f = true) → ev.irq = true → s.cpsr.i = false → taken .irq) ∧
    ((ev.fiq = false ∨ s.cpsr.f = true) → (ev.irq = false ∨ s.cpsr.i = true) → ev.abort = true →
      (s.cfg.haveV6 = false ∨ s.cpsr.a = false) → taken .asyncAbort) ∧
    ((ev.fiq = false ∨ s.cpsr.f = true) → (ev.irq = false ∨ s.cpsr.i = true) →
      (ev.abort = false ∨ (s.cfg.haveV6 = true ∧ s.cpsr.a = true)) → pendingInterrupt s = none)

/-- R42, R44, R84, R114, R573: the steps that run no instruction: the halt address (shown as runEnded, log 4), Jazelle state, a fetch that aborts, the top of the address space, bits no row matches. -/
def Obligations.StepWithoutInstruction : Prop :=
  ∀ s : State,
    (s.pc = s.cfg.haltAddress → step s = .fault .runEnded) ∧
    (s.pc ≠ s.cfg.haltAddress → pendingInterrupt s = none →
      let at' (k : Nat) : Word := s.pc + BitVec.ofNat 32 k
      let aborts : Prop :=
        (s.cfg.trapModel = .fault → step s = .fault (.exception (.prefetchAbort s.pc) s.pc)) ∧
        (s.cfg.trapModel = .classic →
          step s = .next { takeException (.prefetchAbort s.pc) s with stepNo := s.stepNo + 1 })
      (s.cpsr.j = true → step s = .refused .jazelleState) ∧
      (s.cpsr.j = false →
        (s.cpsr.t = false → (∃ k < 4, canFetch s (at' k) = false) → aborts) ∧
        (s.cpsr.t = true → (∃ k < 2, canFetch s (at' k) = false) → aborts) ∧
        (s.cpsr.t = true → isWide (halfOf s.cfg.instrBigEndian (s.byteAt (at' 0)) (s.byteAt (at' 1))) = true →
          (∃ k < 4, canFetch s (at' k) = false) → aborts) ∧
        (∀ c, fetch s = some c →
          (2 ^ 32 ≤ s.pc.toNat + c.size → step s = .refused .pcWrap) ∧
          (s.pc.toNat + c.size < 2 ^ 32 → decodeCode c = none → step s = .refused .notInScope))))

/-- R14, R121: an instruction whose condition fails only moves the PC on, and in Thumb state the IT state. -/
def Obligations.FailedConditionSkips : Prop :=
  ∀ (i : Instr) (s : State), fullConfig s.cfg = true → notInIt i = false →
    idles (encodingOf i) true s = true → (lastInIt i = true → (encodingOf i).isThumb = true → endsBlock s = true) →
    exec i s = .next { s with pc := s.pc + sizeOf2 i, cpsr := { s.cpsr with it := itNext (encodingOf i) s } }

/-- R112, R420, R421: refused: the other instruction set; a 32-bit Thumb encoding without Thumb-2 (but BL, BLX); a branch in an IT block but not last; what may not stand in a block. -/
def Obligations.PlaceAndStateRefusals : Prop :=
  ∀ (i : Instr) (s : State),
    ((encodingOf i).isThumb ≠ s.cpsr.t → exec i s = .refused .notAvailable) ∧
    ((encodingOf i).isThumb = true → s.cfg.haveT2 = false → sizeOf2 i = 4#32 → (∀ t, i ≠ .bl t) →
      (∀ t, i ≠ .blxLabel t) → exec i s = .refused .notAvailable) ∧
    (fullConfig s.cfg = true → (encodingOf i).isThumb = true → s.cpsr.t = true →
      (lastInIt i = true → notInIt i = false → endsBlock s = false → exec i s = .refused .branchInsideIt) ∧
      (notInIt i = true → s.cpsr.it ≠ 0#8 →
        exec i s = .refused (match i with | .it _ _ => .itInsideIt | _ => .notAllowedInIt)))

/-- R200 to R202, R207, R208, R210, R211: ADD, ADC, SUB, SBC, RSB, RSC with their flags, their operand refusals and their frame. -/
def Obligations.ArithmeticResults : Prop :=
  ∀ (e : Enc) (c : Cond) (sf : Bool) (rd rn : Reg) (o : Op2) (s : State),
    let a := s.reg rn
    let cy : Nat := s.cpsr.c.toNat
    let bw : Nat := (!s.cpsr.c).toNat
    let ok := dpOk e [rd] [rn] o false false false
    let near := dpOk e [rd] [rn] o (op2NearSp o) (op2NearSp o) false
    let put (r : Word) (cf vf : Bool) : List (Reg × Word) × Cpsr :=
      ([(rd, r)], if sf then { withNZ s.cpsr r with c := cf, v := vf } else s.cpsr)
    GivesOp2 (.add e sf rd rn o) s (!e.isThumb || s.cfg.haveT2) near o (fun v _ =>
      put (a + v) (decide (2 ^ 32 ≤ a.toNat + v.toNat)) (outside (a.toInt + v.toInt))) ∧
    GivesOp2 (.adc e sf rd rn o) s (!e.isThumb || s.cfg.haveT2) ok o (fun v _ =>
      put (a + v + BitVec.ofNat 32 cy) (decide (2 ^ 32 ≤ a.toNat + v.toNat + cy)) (outside (a.toInt + v.toInt + cy))) ∧
    (writesPc (.sub e sf rd rn o) = false →
      GivesOp2 (.sub e sf rd rn o) s (!e.isThumb || s.cfg.haveT2) near o (fun v _ =>
        put (a - v) (decide (v.toNat ≤ a.toNat)) (outside (a.toInt - v.toInt)))) ∧
    GivesOp2 (.sbc e sf rd rn o) s (!e.isThumb || s.cfg.haveT2) ok o (fun v _ =>
      put (a - v - BitVec.ofNat 32 bw) (decide (v.toNat + bw ≤ a.toNat)) (outside (a.toInt - v.toInt - bw))) ∧
    GivesOp2 (.rsb e sf rd rn o) s (!e.isThumb || s.cfg.haveT2) ok o (fun v _ =>
      put (v - a) (decide (a.toNat ≤ v.toNat)) (outside (v.toInt - a.toInt))) ∧
    GivesOp2 (.rsc c sf rd rn o) s true (dpOk (.a32 c) [rd] [rn] o false false false) o (fun v _ =>
      put (v - a - BitVec.ofNat 32 bw) (decide (a.toNat + bw ≤ v.toNat)) (outside (v.toInt - a.toInt - bw)))

/-- R353 to R356: CMP, CMN, TST, TEQ write the flags and no register. -/
def Obligations.CompareResults : Prop :=
  ∀ (e : Enc) (rn : Reg) (o : Op2) (s : State),
    let a := s.reg rn
    let spOk := dpOk e [] [rn] o false true false
    let ok := dpOk e [] [rn] o false false false
    let feature := !e.isThumb || s.cfg.haveT2
    GivesOp2 (.cmp e rn o) s feature spOk o (fun v _ =>
      ([], { withNZ s.cpsr (a - v) with c := decide (v.toNat ≤ a.toNat), v := outside (a.toInt - v.toInt) })) ∧
    GivesOp2 (.cmn e rn o) s feature spOk o (fun v _ =>
      ([], { withNZ s.cpsr (a + v) with c := decide (2 ^ 32 ≤ a.toNat + v.toNat), v := outside (a.toInt + v.toInt) })) ∧
    GivesOp2 (.tst e rn o) s feature ok o (fun v cf => ([], { withNZ s.cpsr (a &&& v) with c := cf })) ∧
    GivesOp2 (.teq e rn o) s feature ok o (fun v cf => ([], { withNZ s.cpsr (a ^^^ v) with c := cf }))

/-- R340, R357 to R361: AND, EOR, ORR, BIC, ORN; with S the flags N, Z and the carry of the shifter. -/
def Obligations.LogicalResults : Prop :=
  ∀ (e : Enc) (sf : Bool) (rd rn : Reg) (o : Op2) (s : State),
    let a := s.reg rn
    let feature := !e.isThumb || s.cfg.haveT2
    let ok := dpOk e [rd] [rn] o false false false
    let put (r : Word) (cf : Bool) : List (Reg × Word) × Cpsr :=
      ([(rd, r)], if sf then { withNZ s.cpsr r with c := cf } else s.cpsr)
    GivesOp2 (.and e sf rd rn o) s feature ok o (fun v cf => put (a &&& v) cf) ∧
    GivesOp2 (.eor e sf rd rn o) s feature ok o (fun v cf => put (a ^^^ v) cf) ∧
    GivesOp2 (.orr e sf rd rn o) s feature ok o (fun v cf => put (a ||| v) cf) ∧
    GivesOp2 (.bic e sf rd rn o) s feature ok o (fun v cf => put (a &&& ~~~v) cf) ∧
    GivesOp2 (.orn sf rd rn o) s s.cfg.haveT2 (dpOk .thumb [rd] [rn] o false false false) o
      (fun v cf => put (a ||| ~~~v) cf)

/-- R341, R342, R351: MOV, MVN and RRX; RRX is MOV with the RRX operand. -/
def Obligations.MoveResults : Prop :=
  ∀ (e : Enc) (sf : Bool) (rd rm : Reg) (o : Op2) (s : State),
    let feature := !e.isThumb || s.cfg.haveT2
    let put (r : Word) (cf : Bool) : List (Reg × Word) × Cpsr :=
      ([(rd, r)], if sf then { withNZ s.cpsr r with c := cf } else s.cpsr)
    let x := s.reg rm
    GivesOp2 (.mov e sf rd o) s feature (dpOk e [rd] [] o (op2Unshifted o) false (op2Unshifted o)) o
      (fun v cf => put v cf) ∧
    GivesOp2 (.mvn e sf rd o) s feature (dpOk e [rd] [] o false false false) o
      (fun v cf => put (0xFFFFFFFF#32 ^^^ v) cf) ∧
    Gives (.rrx e sf rd rm) s feature (dpOk e [rd] [] (.reg rm .ror 0#5) false false false)
      (put (BitVec.ofNat 32 (s.cpsr.c.toNat * 2 ^ 31 + x.toNat / 2)) (decide (x.toNat % 2 = 1))).1
      (put (BitVec.ofNat 32 (s.cpsr.c.toNat * 2 ^ 31 + x.toNat / 2)) (decide (x.toNat % 2 = 1))).2 ∧
    exec (.rrx e sf rd rm) s = exec (.mov e sf rd (.reg rm .ror 0#5)) s

/-- R347 to R350: the Thumb shifts by the low byte of a register, with N, Z and the carry of the shift. -/
def Obligations.ShiftByRegisterResults : Prop :=
  ∀ (sf : Bool) (rd rm rs : Reg) (s : State),
    let n := (s.reg rs).toNat % 256
    let put (ty : ShiftType) : List (Reg × Word) × Cpsr :=
      let r := shiftC (s.reg rm) ty n s.cpsr.c
      ([(rd, r.1)], if sf then { withNZ s.cpsr r.1 with c := r.2 } else s.cpsr)
    let ok := plainOk .thumb [rd, rm, rs]
    Gives (.lsl sf rd rm rs) s s.cfg.haveT2 ok (put .lsl).1 (put .lsl).2 ∧
    Gives (.lsr sf rd rm rs) s s.cfg.haveT2 ok (put .lsr).1 (put .lsr).2 ∧
    Gives (.asr sf rd rm rs) s s.cfg.haveT2 ok (put .asr).1 (put .asr).2 ∧
    Gives (.ror sf rd rm rs) s s.cfg.haveT2 ok (put .ror).1 (put .ror).2

/-- R203, R206, R209, R343, R344: MOVW, MOVT, ADDW, SUBW, ADR; no flag changes (that ADR may write SP, as the wide ADD and SUB may, is log 16). -/
def Obligations.WideImmediateResults : Prop :=
  ∀ (e : Enc) (rd rn : Reg) (i16 : BitVec 16) (i12 : BitVec 12) (add : Bool) (s : State),
    let base := (s.pc + 4#32) &&& ~~~3#32
    Gives (.movw e rd i16) s s.cfg.haveT2 (plainOk e [rd]) [(rd, BitVec.ofNat 32 i16.toNat)] s.cpsr ∧
    Gives (.movt e rd i16) s s.cfg.haveT2 (plainOk e [rd])
      [(rd, BitVec.ofNat 32 (i16.toNat * 65536 + (s.reg rd).toNat % 65536))] s.cpsr ∧
    Gives (.addw rd rn i12) s s.cfg.haveT2 (rd != 15#4 && rn != 15#4)
      [(rd, s.reg rn + BitVec.ofNat 32 i12.toNat)] s.cpsr ∧
    Gives (.subw rd rn i12) s s.cfg.haveT2 (rd != 15#4 && rn != 15#4)
      [(rd, s.reg rn - BitVec.ofNat 32 i12.toNat)] s.cpsr ∧
    Gives (.adr add rd i12) s s.cfg.haveT2 (rd != 15#4)
      [(rd, if add then base + BitVec.ofNat 32 i12.toNat else base - BitVec.ofNat 32 i12.toNat)] s.cpsr

/-- R204, R205, R212, R213, R52: QADD, QSUB, QDADD, QDSUB; Q is set by a saturation and never cleared. -/
def Obligations.SaturatingAddResults : Prop :=
  ∀ (e : Enc) (rd rm rn : Reg) (s : State),
    let m := (s.reg rm).toInt
    let n := (s.reg rn).toInt
    let d := clampS 32 (2 * n)
    let ok := plainOk e [rd, rm, rn]
    let feature := s.cfg.haveV5E && (!e.isThumb || s.cfg.haveT2)
    Gives (.qadd e rd rm rn) s feature ok [(rd, BitVec.ofInt 32 (clampS 32 (m + n)))]
      (withQ s.cpsr (outside (m + n))) ∧
    Gives (.qsub e rd rm rn) s feature ok [(rd, BitVec.ofInt 32 (clampS 32 (m - n)))]
      (withQ s.cpsr (outside (m - n))) ∧
    Gives (.qdadd e rd rm rn) s feature ok [(rd, BitVec.ofInt 32 (clampS 32 (m + d)))]
      (withQ s.cpsr (outside (2 * n) || outside (m + d))) ∧
    Gives (.qdsub e rd rm rn) s feature ok [(rd, BitVec.ofInt 32 (clampS 32 (m - d)))]
      (withQ s.cpsr (outside (2 * n) || outside (m - d)))

/-- R230 to R242, R255 to R266: the 24 halfword-wise instructions; GE only by the prefixes S and U. -/
def Obligations.ParallelHalfwordResults : Prop :=
  ∀ (p : ParPrefix) (op : HalfOp) (e : Enc) (rd rn rm : Reg) (s : State),
    let sg := p = .s ∨ p = .q ∨ p = .sh
    let v (w : Word) (top : Bool) : Int :=
      laneInt (decide sg) (((if top then w >>> 16 else w).setWidth 16 : BitVec 16))
    let n := s.reg rn
    let m := s.reg rm
    let lo : Int := match op with
      | .add16 => v n false + v m false
      | .sub16 => v n false - v m false
      | .asx => v n false - v m true
      | .sax => v n false + v m true
    let hi : Int := match op with
      | .add16 => v n true + v m true
      | .sub16 => v n true - v m true
      | .asx => v n true + v m false
      | .sax => v n true - v m false
    let loGe : Bool := if p = .s ∨ op = .sub16 ∨ op = .asx then decide (0 ≤ lo) else decide (65536 ≤ lo)
    let hiGe : Bool := if p = .s ∨ op = .sub16 ∨ op = .sax then decide (0 ≤ hi) else decide (65536 ≤ hi)
    let ge : BitVec 4 := BitVec.ofNat 4 (loGe.toNat * 3 + hiGe.toNat * 12)
    Gives (par16 p op e rd rn rm) s (s.cfg.haveV6 && (!e.isThumb || s.cfg.haveT2)) (plainOk e [rd, rn, rm])
      [(rd, laneOut p 16 hi ++ laneOut p 16 lo)] (if p = .s ∨ p = .u then { s.cpsr with ge := ge } else s.cpsr)

/-- R230, R243 to R254: the 12 byte-wise instructions; GE only by the prefixes S and U. -/
def Obligations.ParallelByteResults : Prop :=
  ∀ (p : ParPrefix) (sub : Bool) (e : Enc) (rd rn rm : Reg) (s : State),
    let sg := p = .s ∨ p = .q ∨ p = .sh
    let v (w : Word) (i : Nat) : Int := laneInt (decide sg) ((w >>> (8 * i)).setWidth 8 : BitVec 8)
    let x (i : Nat) : Int := if sub then v (s.reg rn) i - v (s.reg rm) i else v (s.reg rn) i + v (s.reg rm) i
    let g (i : Nat) : Bool := if p = .s ∨ sub = true then decide (0 ≤ x i) else decide (256 ≤ x i)
    Gives (par8 p sub e rd rn rm) s (s.cfg.haveV6 && (!e.isThumb || s.cfg.haveT2)) (plainOk e [rd, rn, rm])
      [(rd, laneOut p 8 (x 3) ++ laneOut p 8 (x 2) ++ laneOut p 8 (x 1) ++ laneOut p 8 (x 0))]
      (if p = .s ∨ p = .u then
        { s.cpsr with
          ge := BitVec.ofNat 4 ((g 0).toNat + 2 * (g 1).toNat + 4 * (g 2).toNat + 8 * (g 3).toNat) }
       else s.cpsr)

/-- R267 to R272: USAD8, USADA8, SSAT, USAT, SSAT16, USAT16; Q set where a value was out of range. -/
def Obligations.DifferenceAndSaturateResults : Prop :=
  ∀ (e : Enc) (rd rm rs rn : Reg) (q5 i5 : BitVec 5) (q4 : BitVec 4) (sh : Bool) (s : State),
    let d (i : Nat) : Nat := ((byteNat (s.reg rm) i : Int) - (byteNat (s.reg rs) i : Int)).natAbs
    let sum := d 0 + d 1 + d 2 + d 3
    let x : Int :=
      if sh then ((s.reg rm).sshiftRight (if i5.toNat = 0 then 32 else i5.toNat)).toInt
      else (s.reg rm <<< i5.toNat).toInt
    let h := halfInt (s.reg rm)
    let two (f : Int → Int) : Word := BitVec.ofInt 16 (f (h true)) ++ BitVec.ofInt 16 (f (h false))
    let feature := s.cfg.haveV6 && (!e.isThumb || s.cfg.haveT2)
    let cs := clampS (q5.toNat + 1)
    let cu := clampU q5.toNat
    let cs16 := clampS (q4.toNat + 1)
    let cu16 := clampU q4.toNat
    Gives (.usad8 e rd rm rs) s feature (plainOk e [rd, rm, rs]) [(rd, BitVec.ofNat 32 sum)] s.cpsr ∧
    Gives (.usada8 e rd rm rs rn) s feature (plainOk e [rd, rm, rs, rn])
      [(rd, s.reg rn + BitVec.ofNat 32 sum)] s.cpsr ∧
    Gives (.ssat e rd q5 sh i5 rm) s feature (plainOk e [rd, rm]) [(rd, BitVec.ofInt 32 (cs x))]
      (withQ s.cpsr (cs x != x)) ∧
    Gives (.usat e rd q5 sh i5 rm) s feature (plainOk e [rd, rm]) [(rd, BitVec.ofInt 32 (cu x))]
      (withQ s.cpsr (cu x != x)) ∧
    Gives (.ssat16 e rd q4 rm) s feature (plainOk e [rd, rm]) [(rd, two cs16)]
      (withQ s.cpsr (cs16 (h false) != h false || cs16 (h true) != h true)) ∧
    Gives (.usat16 e rd q4 rm) s feature (plainOk e [rd, rm]) [(rd, two cu16)]
      (withQ s.cpsr (cu16 (h false) != h false || cu16 (h true) != h true))

/-- R290 to R293, R58: MUL, MLA, MLS; C and V are unchanged (with S: from architecture v5 on), and Rd may equal Rm from v6 on. -/
def Obligations.MultiplyResults : Prop :=
  ∀ (e : Enc) (sf : Bool) (rd rm rs rn : Reg) (s : State), (sf = true → s.cfg.haveV5 = true) →
    let feature := !e.isThumb || s.cfg.haveT2
    let old := s.cfg.haveV6 || rd != rm
    let put (r : Word) : Cpsr := if sf then withNZ s.cpsr r else s.cpsr
    let p := s.reg rm * s.reg rs
    Gives (.mul e sf rd rm rs) s feature (plainOk e [rd, rm, rs] && old) [(rd, p)] (put p) ∧
    Gives (.mla e sf rd rm rs rn) s feature (plainOk e [rd, rm, rs, rn] && old) [(rd, s.reg rn + p)]
      (put (s.reg rn + p)) ∧
    Gives (.mls e rd rm rs rn) s s.cfg.haveT2 (plainOk e [rd, rm, rs, rn]) [(rd, s.reg rn - p)] s.cpsr

/-- R58, R290: on architecture v4 a flag-setting multiply completes with its result, N and Z, and takes a fresh free bit for C and, if long, another for V (log 12). -/
def Obligations.MultiplyFlagsBeforeV5 : Prop :=
  ∀ (c : Cond) (rd rm rs rn lo hi : Reg) (s : State), s.cfg.haveV5 = false → s.cfg.haveV6 = false →
    runs (.a32 c) true s = true →
    let bit := Config.freeBit s.draws
    let bit2 := Config.freeBit (s.draws + 1)
    let p := s.reg rm * s.reg rs
    let u : BitVec 64 := (s.reg rm).setWidth 64 * (s.reg rs).setWidth 64
    let i : BitVec 64 := (s.reg rm).signExtend 64 * (s.reg rs).signExtend 64
    let acc : BitVec 64 := s.reg hi ++ s.reg lo
    let one (x : Instr) (r : Word) : Prop := ∃ t, exec x s = .next t ∧
      Becomes s t [(rd, r)] { withNZ s.cpsr r with c := bit } (s.pc + 4#32) s.ac (s.draws + 1) s.byteAt
    let two (x : Instr) (r : BitVec 64) : Prop := ∃ t, exec x s = .next t ∧
      Becomes s t (pairWrites lo hi r)
        { s.cpsr with n := decide (r.toInt < 0), z := decide (r.toNat = 0), c := bit, v := bit2 }
        (s.pc + 4#32) s.ac (s.draws + 2) s.byteAt
    (plainOk (.a32 c) [rd, rm, rs] = true → rd ≠ rm → one (.mul (.a32 c) true rd rm rs) p ∧
      (rn ≠ 15#4 → one (.mla (.a32 c) true rd rm rs rn) (s.reg rn + p))) ∧
    (plainOk (.a32 c) [lo, hi, rm, rs] = true → lo ≠ hi → lo ≠ rm → hi ≠ rm →
      two (.umull (.a32 c) true lo hi rm rs) u ∧ two (.umlal (.a32 c) true lo hi rm rs) (acc + u) ∧
      two (.smull (.a32 c) true lo hi rm rs) i ∧ two (.smlal (.a32 c) true lo hi rm rs) (acc + i))

/-- R294 to R298: UMULL, UMLAL, UMAAL, SMULL, SMLAL; the pair, and with S the flags N and Z of 64 bits. -/
def Obligations.LongMultiplyResults : Prop :=
  ∀ (e : Enc) (sf : Bool) (lo hi rm rs : Reg) (s : State), (sf = true → s.cfg.haveV5 = true) →
    let feature := !e.isThumb || s.cfg.haveT2
    let ok := plainOk e [lo, hi, rm, rs] && lo != hi
    let old := s.cfg.haveV6 || (lo != rm && hi != rm)
    let u : BitVec 64 := (s.reg rm).setWidth 64 * (s.reg rs).setWidth 64
    let i : BitVec 64 := (s.reg rm).signExtend 64 * (s.reg rs).signExtend 64
    let acc : BitVec 64 := s.reg hi ++ s.reg lo
    let put (r : BitVec 64) : Cpsr :=
      if sf then { s.cpsr with n := decide (r.toInt < 0), z := decide (r.toNat = 0) } else s.cpsr
    Gives (.umull e sf lo hi rm rs) s feature (ok && old) (pairWrites lo hi u) (put u) ∧
    Gives (.umlal e sf lo hi rm rs) s feature (ok && old) (pairWrites lo hi (acc + u)) (put (acc + u)) ∧
    Gives (.smull e sf lo hi rm rs) s feature (ok && old) (pairWrites lo hi i) (put i) ∧
    Gives (.smlal e sf lo hi rm rs) s feature (ok && old) (pairWrites lo hi (acc + i)) (put (acc + i)) ∧
    Gives (.umaal e lo hi rm rs) s (s.cfg.haveV6 && feature) ok
      (pairWrites lo hi ((s.reg hi).setWidth 64 + (s.reg lo).setWidth 64 + u)) s.cpsr

/-- R299 to R303: SMULxy, SMULWy, SMLAxy, SMLAWy, SMLALxy; Q on overflow of the addition, the result wraps. -/
def Obligations.HalfwordMultiplyResults : Prop :=
  ∀ (e : Enc) (x y : Bool) (rd rm rs rn lo hi : Reg) (s : State),
    let feature := s.cfg.haveV5E && (!e.isThumb || s.cfg.haveT2)
    let p := halfInt (s.reg rm) x * halfInt (s.reg rs) y
    let w := ((s.reg rm).toInt * halfInt (s.reg rs) y).fdiv 65536
    let n := (s.reg rn).toInt
    let acc : BitVec 64 := s.reg hi ++ s.reg lo
    Gives (.smulxy e x y rd rm rs) s feature (plainOk e [rd, rm, rs]) [(rd, BitVec.ofInt 32 p)] s.cpsr ∧
    Gives (.smulwy e y rd rm rs) s feature (plainOk e [rd, rm, rs]) [(rd, BitVec.ofInt 32 w)] s.cpsr ∧
    Gives (.smlaxy e x y rd rm rs rn) s feature (plainOk e [rd, rm, rs, rn]) [(rd, BitVec.ofInt 32 (n + p))]
      (withQ s.cpsr (outside (n + p))) ∧
    Gives (.smlawy e y rd rm rs rn) s feature (plainOk e [rd, rm, rs, rn]) [(rd, BitVec.ofInt 32 (n + w))]
      (withQ s.cpsr (outside (n + w))) ∧
    Gives (.smlalxy e x y lo hi rm rs) s feature (plainOk e [lo, hi, rm, rs] && lo != hi)
      (pairWrites lo hi (acc + BitVec.ofInt 64 p)) s.cpsr

/-- R304 to R309: SMUAD, SMLAD, SMLALD, SMUSD, SMLSD, SMLSLD with Rs rotated by 16 when X is present; Q on overflow. -/
def Obligations.DualMultiplyResults : Prop :=
  ∀ (e : Enc) (x : Bool) (rd rm rs rn lo hi : Reg) (s : State),
    let feature := s.cfg.haveV6 && (!e.isThumb || s.cfg.haveT2)
    let a := halfInt (s.reg rm) false * halfInt (s.reg rs) x
    let b := halfInt (s.reg rm) true * halfInt (s.reg rs) (!x)
    let n := (s.reg rn).toInt
    let acc : BitVec 64 := s.reg hi ++ s.reg lo
    let ok3 := plainOk e [rd, rm, rs]
    let ok4 := plainOk e [rd, rm, rs, rn]
    let okL := plainOk e [lo, hi, rm, rs] && lo != hi
    Gives (.smuad e x rd rm rs) s feature ok3 [(rd, BitVec.ofInt 32 (a + b))] (withQ s.cpsr (outside (a + b))) ∧
    Gives (.smlad e x rd rm rs rn) s feature ok4 [(rd, BitVec.ofInt 32 (n + a + b))]
      (withQ s.cpsr (outside (n + a + b))) ∧
    Gives (.smlald e x lo hi rm rs) s feature okL (pairWrites lo hi (acc + BitVec.ofInt 64 (a + b))) s.cpsr ∧
    Gives (.smusd e x rd rm rs) s feature ok3 [(rd, BitVec.ofInt 32 (a - b))] s.cpsr ∧ outside (a - b) = false ∧
    Gives (.smlsd e x rd rm rs rn) s feature ok4 [(rd, BitVec.ofInt 32 (n + a - b))]
      (withQ s.cpsr (outside (n + a - b))) ∧
    Gives (.smlsld e x lo hi rm rs) s feature okL (pairWrites lo hi (acc + BitVec.ofInt 64 (a - b))) s.cpsr

/-- R310 to R312: SMMUL, SMMLA, SMMLS take the top word of the 64-bit value, rounded when R is present; no flag changes. -/
def Obligations.TopWordMultiplyResults : Prop :=
  ∀ (e : Enc) (r : Bool) (rd rm rs rn : Reg) (s : State),
    let feature := s.cfg.haveV6 && (!e.isThumb || s.cfg.haveT2)
    let p : BitVec 64 := (s.reg rm).signExtend 64 * (s.reg rs).signExtend 64
    let n : BitVec 64 := s.reg rn ++ 0#32
    let top (v : BitVec 64) : Word := ((if r then v + 0x80000000#64 else v) >>> 32).setWidth 32
    Gives (.smmul e r rd rm rs) s feature (plainOk e [rd, rm, rs]) [(rd, top p)] s.cpsr ∧
    Gives (.smmla e r rd rm rs rn) s feature (plainOk e [rd, rm, rs, rn]) [(rd, top (n + p))] s.cpsr ∧
    Gives (.smmls e r rd rm rs rn) s feature (plainOk e [rd, rm, rs, rn]) [(rd, top (n - p))] s.cpsr

/-- R60, R313 to R315, R345, R346: MIA, MIAPH, MIAxy, MAR write the 40-bit accumulator and nothing else but the PC; MRA reads it (the sign extension is log 23). -/
def Obligations.AccumulatorResults : Prop :=
  ∀ (c : Cond) (x y : Bool) (lo hi rm rs : Reg) (s : State),
    let half (v : Word) (top : Bool) : BitVec 40 := BitVec.ofInt 40 (halfInt v top)
    let ac (i : Instr) (v : BitVec 40) : Prop :=
      ∃ t, exec i s = .next t ∧ Becomes s t [] s.cpsr (s.pc + 4#32) v s.draws s.byteAt
    (s.cfg.haveXS = false → ∀ i ∈ [Instr.mia c rm rs, .miaph c rm rs, .miaxy c x y rm rs, .mar c lo hi, .mra c lo hi],
      exec i s = .refused .notAvailable) ∧
    (s.cfg.haveXS = true → runs (.a32 c) true s = true →
      (rm ≠ 15#4 → rs ≠ 15#4 →
        ac (.mia c rm rs) (s.ac + (s.reg rm).signExtend 40 * (s.reg rs).signExtend 40) ∧
        ac (.miaph c rm rs) (s.ac + half (s.reg rm) false * half (s.reg rs) false +
          half (s.reg rm) true * half (s.reg rs) true) ∧
        ac (.miaxy c x y rm rs) (s.ac + half (s.reg rm) x * half (s.reg rs) y)) ∧
      (rm = 15#4 ∨ rs = 15#4 → ∀ i ∈ [Instr.mia c rm rs, .miaph c rm rs, .miaxy c x y rm rs],
        exec i s = .refused .pcOperand) ∧
      (lo ≠ 15#4 → hi ≠ 15#4 → lo ≠ hi →
        ac (.mar c lo hi) ((s.reg hi).setWidth 8 ++ s.reg lo) ∧
        Does (.mra c lo hi) s (.a32 c) [(lo, s.ac.setWidth 32), (hi, (s.ac.sshiftRight 32).setWidth 32)] s.cpsr) ∧
      (lo = 15#4 ∨ hi = 15#4 ∨ lo = hi → RefusesOperand (.mar c lo hi) s ∧ RefusesOperand (.mra c lo hi) s))

/-- R316, R317, R521, R523: SDIV rounds toward zero and wraps its one overflow, UDIV rounds down; a zero divisor gives zero under DivByZero = zero and else raises Undefined Instruction with its reason and the instruction's bits (log 24), which writes nothing. -/
def Obligations.DivideResults : Prop :=
  ∀ (e : Enc) (rd rn rm : Reg) (s : State),
    let feature := s.cfg.haveRM && (!e.isThumb || s.cfg.haveT2)
    let ok := plainOk e [rd, rn, rm]
    let n := s.reg rn
    let m := s.reg rm
    let q : Int := (n.toInt.natAbs / m.toInt.natAbs : Nat)
    let raises (i : Instr) : Prop := exec i s = raiseExc (.undefinedInstruction .divideByZero (encode i)) s
    (m.toNat ≠ 0 ∨ s.cfg.divByZero = .zero →
      Gives (.sdiv e rd rn rm) s feature ok
        [(rd, if m.toNat = 0 then 0#32 else BitVec.ofInt 32 (if (n.toInt < 0) ↔ (m.toInt < 0) then q else -q))] s.cpsr ∧
      Gives (.udiv e rd rn rm) s feature ok
        [(rd, if m.toNat = 0 then 0#32 else BitVec.ofNat 32 (n.toNat / m.toNat))] s.cpsr) ∧
    (m.toNat = 0 → s.cfg.divByZero = .fault → s.cfg.haveRM = true → runs e true s = true → ok = true →
      raises (.sdiv e rd rn rm) ∧ raises (.udiv e rd rn rm))

/-- R352, R399 to R402: CLZ, RBIT, REV, REV16, REVSH; no flag changes. -/
def Obligations.BitOrderResults : Prop :=
  ∀ (e : Enc) (rd rm : Reg) (s : State) (k : Nat) (r : Word),
    let x := s.reg rm
    let ok := plainOk e [rd, rm]
    let t2 := !e.isThumb || s.cfg.haveT2
    let v6 := s.cfg.haveV6 && t2
    (x.toNat < 2 ^ (32 - k) → (k = 32 ∨ 2 ^ (31 - k) ≤ x.toNat) → k ≤ 32 →
      Gives (.clz e rd rm) s (s.cfg.haveV5 && t2) ok [(rd, BitVec.ofNat 32 k)] s.cpsr) ∧
    ((∀ i < 32, r.getLsbD i = x.getLsbD (31 - i)) → Gives (.rbit e rd rm) s s.cfg.haveT2 ok [(rd, r)] s.cpsr) ∧
    ((∀ i < 4, byteNat r i = byteNat x (3 - i)) → Gives (.rev e rd rm) s v6 ok [(rd, r)] s.cpsr) ∧
    ((∀ i < 4, byteNat r i = byteNat x (i / 2 * 2 + 1 - i % 2)) → Gives (.rev16 e rd rm) s v6 ok [(rd, r)] s.cpsr) ∧
    ((r.toInt = (BitVec.ofNat 16 (byteNat x 0 * 256 + byteNat x 1)).toInt) →
      Gives (.revsh e rd rm) s v6 ok [(rd, r)] s.cpsr)

/-- R380 to R384: BFC, BFI, SBFX, UBFX bit by bit; a field outside the register is refused. -/
def Obligations.BitFieldResults : Prop :=
  ∀ (e : Enc) (rd rn : Reg) (lsb m : BitVec 5) (s : State) (r : Word),
    let d := s.reg rd
    let n := s.reg rn
    let l := lsb.toNat
    let t2 := s.cfg.haveT2
    (l ≤ m.toNat →
      ((∀ i < 32, r.getLsbD i = (!(decide (l ≤ i) && decide (i ≤ m.toNat)) && d.getLsbD i)) →
        Gives (.bfc e rd lsb m) s t2 (plainOk e [rd]) [(rd, r)] s.cpsr) ∧
      ((∀ i < 32, r.getLsbD i = if l ≤ i ∧ i ≤ m.toNat then n.getLsbD (i - l) else d.getLsbD i) →
        Gives (.bfi e rd rn lsb m) s t2 (plainOk e [rd, rn]) [(rd, r)] s.cpsr)) ∧
    (l + m.toNat ≤ 31 →
      ((∀ i < 32, r.getLsbD i = n.getLsbD (l + min i m.toNat)) →
        Gives (.sbfx e rd rn lsb m) s t2 (plainOk e [rd, rn]) [(rd, r)] s.cpsr) ∧
      ((∀ i < 32, r.getLsbD i = (decide (i ≤ m.toNat) && n.getLsbD (l + i))) →
        Gives (.ubfx e rd rn lsb m) s t2 (plainOk e [rd, rn]) [(rd, r)] s.cpsr)) ∧
    (t2 = true → runs e true s = true → plainOk e [rd, rn] = true →
      (m.toNat < l → exec (.bfc e rd lsb m) s = .refused .unpredictableBitField ∧
        exec (.bfi e rd rn lsb m) s = .refused .unpredictableBitField) ∧
      (31 < l + m.toNat → exec (.sbfx e rd rn lsb m) s = .refused .unpredictableBitField ∧
        exec (.ubfx e rd rn lsb m) s = .refused .unpredictableBitField))

/-- R385, R386, R403: PKHBT, PKHTB with their shift, and SEL by the GE flags. -/
def Obligations.PackAndSelectResults : Prop :=
  ∀ (e : Enc) (rd rn rm : Reg) (i5 : BitVec 5) (s : State) (r : Word),
    let n := s.reg rn
    let m := s.reg rm
    let ok := plainOk e [rd, rn, rm]
    let v6 := s.cfg.haveV6 && (!e.isThumb || s.cfg.haveT2)
    Gives (.pkhbt e rd rn rm i5) s v6 ok
      [(rd, ((m <<< i5.toNat) &&& 0xFFFF0000#32) ||| (n &&& 0x0000FFFF#32))] s.cpsr ∧
    Gives (.pkhtb e rd rn rm i5) s v6 ok
      [(rd, (n &&& 0xFFFF0000#32) |||
        (m.sshiftRight (if i5.toNat = 0 then 32 else i5.toNat) &&& 0x0000FFFF#32))] s.cpsr ∧
    ((∀ i < 4, byteNat r i = if s.cpsr.ge.getLsbD i then byteNat n i else byteNat m i) →
      Gives (.sel e rd rn rm) s v6 ok [(rd, r)] s.cpsr)

/-- R387 to R398: the twelve extend instructions, with and without an addition. -/
def Obligations.ExtendResults : Prop :=
  ∀ (e : Enc) (rd rn rm : Reg) (rot : BitVec 2) (s : State),
    let x : Word := (s.reg rm).rotateRight (8 * rot.toNat)
    let n := s.reg rn
    let sh : Word := BitVec.ofInt 32 (x.setWidth 16 : BitVec 16).toInt
    let sb : Word := BitVec.ofInt 32 (x.setWidth 8 : BitVec 8).toInt
    let uh : Word := BitVec.ofNat 32 (x.toNat % 65536)
    let ub : Word := BitVec.ofNat 32 (x.toNat % 256)
    let b2 : BitVec 8 := (x >>> 16).setWidth 8
    let b0 : BitVec 8 := x.setWidth 8
    let nh : BitVec 16 := (n >>> 16).setWidth 16
    let nl : BitVec 16 := n.setWidth 16
    let s2 : BitVec 16 := BitVec.ofInt 16 b2.toInt
    let s0 : BitVec 16 := BitVec.ofInt 16 b0.toInt
    let u2 : BitVec 16 := BitVec.ofNat 16 b2.toNat
    let u0 : BitVec 16 := BitVec.ofNat 16 b0.toNat
    let v6 := s.cfg.haveV6 && (!e.isThumb || s.cfg.haveT2)
    let g2 (i : Instr) (v : Word) : Prop := Gives i s v6 (plainOk e [rd, rm]) [(rd, v)] s.cpsr
    let g3 (i : Instr) (v : Word) : Prop := Gives i s v6 (plainOk e [rd, rn, rm]) [(rd, v)] s.cpsr
    g2 (.sxth e rd rm rot) sh ∧ g2 (.sxtb16 e rd rm rot) (s2 ++ s0) ∧ g2 (.sxtb e rd rm rot) sb ∧
    g2 (.uxth e rd rm rot) uh ∧ g2 (.uxtb16 e rd rm rot) (u2 ++ u0) ∧ g2 (.uxtb e rd rm rot) ub ∧
    g3 (.sxtah e rd rn rm rot) (n + sh) ∧ g3 (.sxtab16 e rd rn rm rot) ((nh + s2) ++ (nl + s0)) ∧
    g3 (.sxtab e rd rn rm rot) (n + sb) ∧ g3 (.uxtah e rd rn rm rot) (n + uh) ∧
    g3 (.uxtab16 e rd rn rm rot) ((nh + u2) ++ (nl + u0)) ∧ g3 (.uxtab e rd rn rm rot) (n + ub)

/-- R421: IT writes the IT state and the next address; the conditions this gives the one to four instructions after it; where IT is refused. -/
def Obligations.ItResults : Prop :=
  ∀ (firstcond mask : BitVec 4) (s : State),
    (s.cfg.haveT2 = false → exec (.it firstcond mask) s = .refused .notAvailable) ∧
    (s.cfg.haveT2 = true → s.cpsr.t = true →
      (s.cpsr.it ≠ 0#8 → exec (.it firstcond mask) s = .refused .itInsideIt) ∧
      (s.cpsr.it = 0#8 → firstcond = 15#4 → exec (.it firstcond mask) s = .refused .unpredictableItCondition) ∧
      (s.cpsr.it = 0#8 → firstcond = 14#4 → mask ∉ [1#4, 2#4, 4#4, 8#4] →
        exec (.it firstcond mask) s = .refused .itAlWithElse) ∧
      (s.cpsr.it = 0#8 → firstcond ≠ 15#4 → (firstcond = 14#4 → mask ∈ [1#4, 2#4, 4#4, 8#4]) →
        ∃ t, exec (.it firstcond mask) s = .next t ∧
          Becomes s t [] { s.cpsr with it := firstcond ++ mask } (s.pc + 2#32) s.ac s.draws s.byteAt)) ∧
    (mask ≠ 0#4 → ∀ k < 4,
      let it := Nat.repeat itAdvance k (firstcond ++ mask)
      (k = 0 ∨ mask.toNat % 2 ^ (4 - k) ≠ 0 →
        it.extractLsb' 4 4 = firstcond.extractLsb' 1 3 ++
          (if k = 0 then firstcond.extractLsb' 0 1 else BitVec.ofBool (mask.getLsbD (4 - k)))) ∧
      (k ≠ 0 → mask.toNat % 2 ^ (4 - k) = 0 → it = 0#8) ∧
      Nat.repeat itAdvance 4 (firstcond ++ mask) = 0#8)

/-- R422, R423, R425: B, BL and BLX to a label in every encoding: the target, the link register, the instruction set. -/
def Obligations.LabelBranchResults : Prop :=
  ∀ (c : Cond) (sg j1 j2 h : Bool) (i24 : BitVec 24) (i10 i10l : BitVec 10) (i6 : BitVec 6) (i11 : BitVec 11) (s : State),
    pcAligned s = true →
    let pc : Int := s.pc.toNat
    let at4 (off : Int) : Word := BitVec.ofInt 32 (pc + off)
    let armTo := at4 (8 + 4 * i24.toInt)
    let high : Int := (if sg then -16777216 else 0) + (if j1 = sg then 8388608 else 0) + (if j2 = sg then 4194304 else 0) +
      4096 * (i10.toNat : Int)
    let t4To := at4 (4 + high + 2 * i11.toNat)
    let t3To := at4 (4 + (if sg then -1048576 else 0) + 524288 * j2.toNat + 262144 * j1.toNat + 4096 * i6.toNat +
      2 * i11.toNat)
    let v5t := s.cfg.haveV5 && s.cfg.haveThumb
    (runs (.a32 c) true s = true →
      Branches (.b (.a32 c i24)) s [] false armTo ∧
      Branches (.bl (.a32 c i24)) s [(14#4, s.pc + 4#32)] false armTo) ∧
    (runs (.a32 .al) true s = true → v5t = true →
      Branches (.blxLabel (.a32 h i24)) s [(14#4, s.pc + 4#32)] true (at4 (8 + 4 * i24.toInt + 2 * h.toNat))) ∧
    (v5t = false → exec (.blxLabel (.a32 h i24)) s = .refused .notAvailable ∧
      exec (.blxLabel (.t32 sg j1 j2 i10 i10l)) s = .refused .notAvailable) ∧
    (runs .thumb false s = true → endsBlock s = true →
      (s.cfg.haveT2 = true → Branches (.b (.t4 sg j1 j2 i10 i11)) s [] true t4To) ∧
      Branches (.bl (.t32 sg j1 j2 i10 i11)) s [(14#4, (s.pc + 4#32) ||| 1#32)] true t4To ∧
      (v5t = true → Branches (.blxLabel (.t32 sg j1 j2 i10 i10l)) s [(14#4, (s.pc + 4#32) ||| 1#32)] false
        (BitVec.ofInt 32 (((pc + 4) / 4 * 4) + high + 4 * i10l.toNat)))) ∧
    (s.cpsr.t = true → s.cfg.haveT2 = true → s.cpsr.it = 0#8 →
      Branches (.b (.t3 c sg j1 j2 i6 i11)) s [] true (if condHolds c s.cpsr then t3To else s.pc + 4#32))

/-- R424, R426, R427: BX, BLX and BXJ to a register: the target, the instruction set from bit 0, the link register, the refusals (a processor without Thumb state is log 21). -/
def Obligations.RegisterBranchResults : Prop :=
  ∀ (e : Enc) (rm : Reg) (s : State), (e.isThumb = true → endsBlock s = true) →
    let size : Word := if e.isThumb then 2#32 else 4#32
    let link : List (Reg × Word) := [(14#4, linkOf s size)]
    (s.cfg.haveThumb = false → exec (.bx e rm) s = .refused .notAvailable) ∧
    (s.cfg.haveV5 = false → exec (.blxReg e rm) s = .refused .notAvailable) ∧
    (s.cfg.haveV5J = false → exec (.bxj e rm) s = .refused .notAvailable) ∧
    (runs e false s = true →
      (s.cfg.haveThumb = true → plainOk e [rm] = true → BranchesTo (.bx e rm) s [] (s.reg rm)) ∧
      (s.cfg.haveV5 = true → plainOk e [rm] = true → BranchesTo (.blxReg e rm) s link (s.reg rm)) ∧
      (plainOk e [rm] = false →
        (s.cfg.haveThumb = true → RefusesOperand (.bx e rm) s) ∧
        (s.cfg.haveV5 = true → RefusesOperand (.blxReg e rm) s))) ∧
    (runs e true s = true → s.cfg.haveV5J = true →
      (plainOk e [rm] = false → RefusesOperand (.bxj e rm) s) ∧
      (plainOk e [rm] = true → s.cfg.jazelleAvailable = true → exec (.bxj e rm) s = .refused .jazelleNotModelled) ∧
      (plainOk e [rm] = true → s.cfg.jazelleAvailable = false → BranchesTo (.bxj e rm) s [] (s.reg rm)))

/-- R428 to R431: CBZ and CBNZ branch forward on a zero or a non-zero register; TBB and TBH add twice the table entry to pc + 4, and a read that is not allowed aborts. -/
def Obligations.CompareAndTableBranchResults : Prop :=
  ∀ (i : Bool) (i5 : BitVec 5) (r : BitVec 3) (rn rm : Reg) (s : State),
    (s.cfg.haveT2 = false → ∀ x ∈ [Instr.cbz i i5 r, .cbnz i i5 r, .tbb rn rm, .tbh rn rm],
      exec x s = .refused .notAvailable) ∧
    (s.cfg.haveT2 = true → s.cpsr.t = true → s.cpsr.it = 0#8 → pcAligned s = true →
      let dest := s.pc + BitVec.ofNat 32 (4 + 64 * i.toNat + 2 * i5.toNat)
      let zero := decide ((s.reg (BitVec.ofNat 4 r.toNat)).toNat = 0)
      let b := s.reg rn + s.reg rm
      let h := s.reg rn + s.reg rm * 2#32
      Branches (.cbz i i5 r) s [] true (if zero then dest else s.pc + 2#32) ∧
      Branches (.cbnz i i5 r) s [] true (if zero then s.pc + 2#32 else dest) ∧
      (rm ≠ 15#4 → rm ≠ 13#4 → rn ≠ 13#4 →
        (allowsAccess s s.privileged Rights.read b .byte = true →
          Branches (.tbb rn rm) s [] true (s.pc + BitVec.ofNat 32 (4 + 2 * numberAt s b .byte))) ∧
        (allowsAccess s s.privileged Rights.read b .byte = false → Aborts (.tbb rn rm) s b .byte false) ∧
        (allowsAccess s s.privileged Rights.read h .half = true →
          Branches (.tbh rn rm) s [] true (s.pc + BitVec.ofNat 32 (4 + 2 * numberAt s h .half))) ∧
        (allowsAccess s s.privileged Rights.read h .half = false → Aborts (.tbh rn rm) s h .half false)) ∧
      (rm = 15#4 ∨ rm = 13#4 ∨ rn = 13#4 → RefusesOperand (.tbb rn rm) s ∧ RefusesOperand (.tbh rn rm) s))

/-- R451, R50: MRS gives the CPSR with its execution state bits zero, or all 32 bits of the SPSR; User and System mode have none. -/
def Obligations.ReadStatusResults : Prop :=
  ∀ (e : Enc) (rd : Reg) (s : State),
    let p := s.cpsr
    let num : Mode → Nat := fun m => match m with
      | .usr => 16 | .fiq => 17 | .irq => 18 | .svc => 19 | .abt => 23 | .und => 27 | .sys => 31
    let word := p.n.toNat * 2 ^ 31 + p.z.toNat * 2 ^ 30 + p.c.toNat * 2 ^ 29 + p.v.toNat * 2 ^ 28 + p.q.toNat * 2 ^ 27 +
      p.ge.toNat * 2 ^ 16 + p.e.toNat * 2 ^ 9 + p.a.toNat * 2 ^ 8 + p.i.toNat * 2 ^ 7 + p.f.toNat * 2 ^ 6 + num p.mode
    let feature := !e.isThumb || s.cfg.haveT2
    Gives (.mrs e false rd) s feature (plainOk e [rd]) [(rd, BitVec.ofNat 32 word)] s.cpsr ∧
    (∀ w, s.spsr = some w → Gives (.mrs e true rd) s feature (plainOk e [rd]) [(rd, w)] s.cpsr) ∧
    (feature = true → runs e true s = true → plainOk e [rd] = true → p.mode = .usr ∨ p.mode = .sys →
      exec (.mrs e true rd) s = .refused .noSpsr)

/-- R450, R452, R453: MSR to the CPSR writes the selected bytes; A, I, F and the mode only when privileged; T, J and IT never. -/
def Obligations.WriteCpsrResults : Prop :=
  ∀ (e : Enc) (c : Cond) (mask rot : BitVec 4) (i8 : BitVec 8) (rm : Reg) (s : State),
    let priv := s.cpsr.mode ≠ .usr
    let control := mask.getLsbD 0 = true ∧ priv
    let after (v : Word) (m : Mode) : Cpsr := { s.cpsr with
      n := if mask.getLsbD 3 then v.getLsbD 31 else s.cpsr.n
      z := if mask.getLsbD 3 then v.getLsbD 30 else s.cpsr.z
      c := if mask.getLsbD 3 then v.getLsbD 29 else s.cpsr.c
      v := if mask.getLsbD 3 then v.getLsbD 28 else s.cpsr.v
      q := if mask.getLsbD 3 ∧ s.cfg.haveV5E then v.getLsbD 27 else s.cpsr.q
      ge := if mask.getLsbD 2 ∧ s.cfg.haveV6 then BitVec.ofNat 4 (v.toNat / 65536) else s.cpsr.ge
      e := if mask.getLsbD 1 ∧ s.cfg.haveV6 then v.getLsbD 9 else s.cpsr.e
      a := if mask.getLsbD 1 ∧ s.cfg.haveV6 ∧ priv then v.getLsbD 8 else s.cpsr.a
      i := if control then v.getLsbD 7 else s.cpsr.i
      f := if control then v.getLsbD 6 else s.cpsr.f
      mode := if control then m else s.cpsr.mode }
    let gives (i : Instr) (feature ok : Bool) (v : Word) : Prop :=
      (control → Mode.ofBits (v.extractLsb' 0 5) = none → feature = true → runs (encodingOf i) true s = true → ok = true →
        exec i s = .refused .badMode) ∧
      (∀ m, control → Mode.ofBits (v.extractLsb' 0 5) = some m → Gives i s feature ok [] (after v m)) ∧
      (¬control → Gives i s feature ok [] (after v s.cpsr.mode))
    gives (.msrReg e false mask rm) (!e.isThumb || s.cfg.haveT2) (plainOk e [rm]) (s.reg rm) ∧
    gives (.msrImm c false mask rot i8) true true (armExpandImm rot i8 s.cpsr.c).1

/-- R452, R453, R56: MSR to the SPSR replaces the selected bytes of the current mode's SPSR, unfiltered, and nothing else; User and System mode have none. -/
def Obligations.WriteSpsrResults : Prop :=
  ∀ (e : Enc) (c : Cond) (mask rot : BitVec 4) (i8 : BitVec 8) (rm : Reg) (s : State) (r : Word),
    let gives (i : Instr) (v : Word) : Prop :=
      (∀ old, s.spsr = some old →
        (∀ k < 4, byteNat r k = if mask.getLsbD k then byteNat v k else byteNat old k) →
        ∃ t, exec i s = .next t ∧ t.spsr = some r ∧ t.cpsr = { s.cpsr with it := itNext (encodingOf i) s } ∧
          t.pc = s.pc + 4#32 ∧ t.regs = s.regs ∧ t.mem = s.mem ∧ t.ac = s.ac ∧ t.draws = s.draws ∧ t.cfg = s.cfg ∧
          t.stepNo = s.stepNo ∧ (s.cpsr.mode ≠ .fiq → t.spsrFiq = s.spsrFiq) ∧
          (s.cpsr.mode ≠ .irq → t.spsrIrq = s.spsrIrq) ∧ (s.cpsr.mode ≠ .svc → t.spsrSvc = s.spsrSvc) ∧
          (s.cpsr.mode ≠ .abt → t.spsrAbt = s.spsrAbt) ∧ (s.cpsr.mode ≠ .und → t.spsrUnd = s.spsrUnd)) ∧
      (s.cpsr.mode = .usr ∨ s.cpsr.mode = .sys → exec i s = .refused .noSpsr)
    (runs e true s = true → plainOk e [rm] = true → gives (.msrReg e true mask rm) (s.reg rm)) ∧
    (runs e true s = true → plainOk e [rm] = false → RefusesOperand (.msrReg e true mask rm) s) ∧
    (runs (.a32 c) true s = true → gives (.msrImm c true mask rot i8) (armExpandImm rot i8 s.cpsr.c).1)

/-- R454 to R457: CPSIE, CPSID, CPS and SETEND; the first three do nothing in User mode; a number that is no mode is refused. -/
def Obligations.ChangeStateResults : Prop :=
  ∀ (thumb m a i f big : Bool) (mode : BitVec 5) (s : State), s.cfg.haveV6 = true →
    (thumb = true → s.cpsr.it = 0#8) →
    let masks (v : Bool) : Cpsr := { s.cpsr with
      a := if a then v else s.cpsr.a, i := if i then v else s.cpsr.i, f := if f then v else s.cpsr.f }
    let done (x : Instr) (p : Cpsr) : Prop := Does x s (encodingOf x) [] p
    (runs (encOf thumb) true s = true →
      (s.cpsr.mode = .usr → done (.cpsie thumb m a i f mode) s.cpsr ∧ done (.cpsid thumb m a i f mode) s.cpsr ∧
        done (.cps thumb mode) s.cpsr) ∧
      (s.cpsr.mode ≠ .usr → m = false →
        done (.cpsie thumb m a i f mode) (masks false) ∧ done (.cpsid thumb m a i f mode) (masks true)) ∧
      (∀ k, s.cpsr.mode ≠ .usr → Mode.ofBits mode = some k →
        (m = true → done (.cpsie thumb m a i f mode) { masks false with mode := k } ∧
          done (.cpsid thumb m a i f mode) { masks true with mode := k }) ∧
        done (.cps thumb mode) { s.cpsr with mode := k }) ∧
      (s.cpsr.mode ≠ .usr → Mode.ofBits mode = none →
        (m = true → exec (.cpsie thumb m a i f mode) s = .refused .badMode ∧
          exec (.cpsid thumb m a i f mode) s = .refused .badMode) ∧
        exec (.cps thumb mode) s = .refused .badMode)) ∧
    (runs (encOf thumb) false s = true → done (.setend thumb big) { s.cpsr with e := big })

/-- R470, R480 to R484, R488 to R492: the ten loads in every addressing form: value, base, aborts, refusals; the T forms use User rights. -/
def Obligations.LoadResults : Prop :=
  ∀ (e : Enc) (rd : Reg) (m : MemForm) (mt : MemFormT) (s : State),
    let f := !e.isThumb || s.cfg.haveT2
    let ok (spD : Bool) := memOk s.cfg e true spD rd (memParts m)
    let okT := memOk s.cfg e true false rd (memPartsT mt)
    let a := address s m
    let b := addressT s mt
    GivesLoad (.ldr e rd m) s f (ok true) s.privileged rd a .word false ∧
    GivesLoad (.ldrb e rd m) s f (ok false) s.privileged rd a .byte false ∧
    GivesLoad (.ldrsb e rd m) s f (ok false) s.privileged rd a .byte true ∧
    GivesLoad (.ldrh e rd m) s f (ok false) s.privileged rd a .half false ∧
    GivesLoad (.ldrsh e rd m) s f (ok false) s.privileged rd a .half true ∧
    GivesLoad (.ldrt e rd mt) s f okT false rd b .word false ∧ GivesLoad (.ldrbt e rd mt) s f okT false rd b .byte false ∧
    GivesLoad (.ldrsbt e rd mt) s s.cfg.haveT2 okT false rd b .byte true ∧
    GivesLoad (.ldrht e rd mt) s s.cfg.haveT2 okT false rd b .half false ∧
    GivesLoad (.ldrsht e rd mt) s s.cfg.haveT2 okT false rd b .half true

/-- R470, R485 to R487, R493 to R495, R94: the six stores in every addressing form: the bytes stored, the base, aborts, refusals; the T forms use User rights (memory in canonical form, log 9). -/
def Obligations.StoreResults : Prop :=
  ∀ (e : Enc) (rd : Reg) (m : MemForm) (mt : MemFormT) (s : State), Memory.wf s.mem = true →
    let f := !e.isThumb || s.cfg.haveT2
    let ok (spD : Bool) := memOk s.cfg e false spD rd (memParts m)
    let okT := memOk s.cfg e false false rd (memPartsT mt)
    let a := address s m
    let b := addressT s mt
    GivesStore (.str e rd m) s f (ok true) s.privileged rd a .word ∧
    GivesStore (.strb e rd m) s f (ok false) s.privileged rd a .byte ∧
    GivesStore (.strh e rd m) s f (ok false) s.privileged rd a .half ∧
    GivesStore (.strt e rd mt) s f okT false rd b .word ∧ GivesStore (.strbt e rd mt) s f okT false rd b .byte ∧
    GivesStore (.strht e rd mt) s s.cfg.haveT2 okT false rd b .half

/-- R214, R530: SUBS PC, LR, #imm in both encodings: the PC from the LR, the CPSR from the SPSR, and the refusals (fields the processor lacks are log 32, the IT state in ARM state log 20). -/
def Obligations.ExceptionReturnResults : Prop :=
  ∀ (c : Cond) (rot : BitVec 4) (i8 : BitVec 8) (s : State),
    let arm := Instr.sub (.a32 c) true 15#4 14#4 (.immA rot i8)
    let thumb := Instr.subsPcLr i8
    let returns (i : Instr) (imm : Word) : Prop :=
      (s.cpsr.mode = .usr ∨ s.cpsr.mode = .sys → exec i s = .refused .noSpsr) ∧
      (∀ w, s.spsr = some w →
        (Mode.ofBits (w.extractLsb' 0 5) = none ∨ w.getLsbD 24 = true → exec i s = .refused .badReturnState) ∧
        (∀ m, Mode.ofBits (w.extractLsb' 0 5) = some m → w.getLsbD 24 = false →
          let dest := s.reg 14#4 - imm
          let t := s.cfg.haveThumb && w.getLsbD 5
          (t = false → dest.toNat % 4 ≠ 0 → exec i s = .refused .misalignedReturn) ∧
          (t = true ∨ dest.toNat % 4 = 0 → ∃ s', exec i s = .next s' ∧
            Becomes s s' []
              { n := w.getLsbD 31, z := w.getLsbD 30, c := w.getLsbD 29, v := w.getLsbD 28,
                q := s.cfg.haveV5E && w.getLsbD 27,
                it := if t ∧ s.cfg.haveT2 then BitVec.ofNat 8 (w.toNat / 1024 % 64 * 4 + w.toNat / 2 ^ 25 % 4) else 0#8,
                j := false, ge := if s.cfg.haveV6 then BitVec.ofNat 4 (w.toNat / 65536) else 0#4,
                e := s.cfg.haveV6 && w.getLsbD 9, a := s.cfg.haveV6 && w.getLsbD 8, i := w.getLsbD 7,
                f := w.getLsbD 6, t := t, mode := m }
              (if t then BitVec.ofNat 32 (dest.toNat / 2 * 2) else dest) s.ac s.draws s.byteAt)))
    (runs (.a32 c) true s = true → returns arm (armExpandImm rot i8 s.cpsr.c).1) ∧
    (runs .thumb true s = true → endsBlock s = true → returns thumb (BitVec.ofNat 32 i8.toNat))

/-- R526, R525, R528: taking an exception: mode, SPSR, link register, masks, state bits, PC; everything else is unchanged. -/
def Obligations.ExceptionEntry : Prop :=
  ∀ (x : Exc) (s : State),
    let k : Mode × Nat × Nat × Nat := match x with
      | .undefinedInstruction _ _ => (.und, 0x04, 4, 2)
      | .supervisorCall => (.svc, 0x08, 4, 2)
      | .prefetchAbort _ => (.abt, 0x0C, 4, 4)
      | .dataAbort _ _ _ => (.abt, 0x10, 8, 8)
      | .asyncAbort => (.abt, 0x10, 8, 8)
      | .irq => (.irq, 0x18, 4, 4)
      | .fiq => (.fiq, 0x1C, 4, 4)
    let t := takeException x s
    let aborts : Bool := match x with | .undefinedInstruction _ _ | .supervisorCall => false | _ => true
    t.spsr = some s.cpsr.toWord ∧ t.pc = s.cfg.vectorBase + BitVec.ofNat 32 k.2.1 ∧
    t.cpsr = { s.cpsr with
      mode := k.1, i := true, f := s.cpsr.f || decide (x = .fiq), it := 0#8, j := false,
      a := if s.cfg.haveV6 && aborts then true else s.cpsr.a,
      t := s.cfg.haveThumb && s.cfg.thumbExceptionEntry,
      e := if s.cfg.haveV6 then s.cfg.dataBigEndianAtReset else s.cpsr.e } ∧
    (∀ q, t.regs.get q = written k.1 s.regs
      [(14#4, s.pc + BitVec.ofNat 32 (if s.cpsr.t then k.2.2.2 else k.2.2.1))] q) ∧
    t.mem = s.mem ∧ t.ac = s.ac ∧ t.cfg = s.cfg ∧ t.draws = s.draws ∧ t.stepNo = s.stepNo ∧
    (k.1 ≠ .fiq → t.spsrFiq = s.spsrFiq) ∧ (k.1 ≠ .irq → t.spsrIrq = s.spsrIrq) ∧
    (k.1 ≠ .svc → t.spsrSvc = s.spsrSvc) ∧ (k.1 ≠ .abt → t.spsrAbt = s.spsrAbt) ∧
    (k.1 ≠ .und → t.spsrUnd = s.spsrUnd)

/-- R521, R524: under TrapModel = fault an exception ends the run with the exception and the PC; under classic it is taken. -/
def Obligations.FaultState : Prop :=
  ∀ (x : Exc) (s : State),
    (s.cfg.trapModel = .fault → raiseExc x s = .fault (.exception x s.pc)) ∧
    (s.cfg.trapModel = .classic → raiseExc x s = .next (takeException x s))

/-- R526, R530: the return the table of R526 names brings back the PC and the whole CPSR of the interrupted program. -/
def Obligations.ReturnResumesProgram : Prop :=
  ∀ (c : Cond) (i8 : BitVec 8) (x : Exc) (s : State), RunInv s → (∀ r b, x ≠ .undefinedInstruction r b) → x ≠ .supervisorCall →
    s.cfg.thumbExceptionEntry = false → condHolds c s.cpsr = true →
    i8.toNat = (match x with | .dataAbort _ _ _ => 8 | .asyncAbort => 8 | _ => 4) →
    ∃ t, exec (.sub (.a32 c) true 15#4 14#4 (.immA 0#4 i8)) (takeException x s) = .next t ∧
      t.pc = s.pc ∧ t.cpsr = s.cpsr ∧ t.mem = s.mem ∧ t.ac = s.ac ∧
      (∀ q, q ∉ [PReg.lrFiq, .lrIrq, .lrSvc, .lrAbt, .lrUnd] → t.regs.get q = s.regs.get q)

/-- R450, R545: an instruction executed in User mode leaves the mode and the masks A, I, F as they are, unless it raises an exception. -/
def Obligations.UserModeConfined : Prop :=
  ∀ (i : Instr) (s t : State), s.cpsr.mode = .usr → exec i s = .next t →
    (t.cpsr.mode = .usr ∧ t.cpsr.a = s.cpsr.a ∧ t.cpsr.i = s.cpsr.i ∧ t.cpsr.f = s.cpsr.f) ∨
    ∃ x, s.cfg.trapModel = .classic ∧ t = takeException x s

/-- R43, R56, R60, R470: only branches write another PC, only stores memory, only MSR the SPSR, only MIA and MAR the accumulator; no instruction changes the parameters. -/
def Obligations.WritersOfEachState : Prop :=
  ∀ (i : Instr) (s t : State), exec i s = .next t →
    (∃ x, s.cfg.trapModel = .classic ∧ t = takeException x s) ∨
    ((writesPc i = false → t.pc = s.pc + sizeOf2 i) ∧ (isStore i = false → t.mem = s.mem) ∧
     (writesAc i = false → t.ac = s.ac) ∧ t.cfg = s.cfg ∧ t.stepNo = s.stepNo ∧
     (writesSpsr i = false → t.spsrFiq = s.spsrFiq ∧ t.spsrIrq = s.spsrIrq ∧ t.spsrSvc = s.spsrSvc ∧
       t.spsrAbt = s.spsrAbt ∧ t.spsrUnd = s.spsrUnd))

/-- R94: no step changes a byte that is executable. -/
def Obligations.ProgramTextFixed : Prop :=
  ∀ (s t : State) (a : Word), step s = .next t → executable s.cfg a = true → t.byteAt a = s.byteAt a

/-- R65, R80: a store keeps memory in its canonical form, and in that form memories with equal bytes are equal (the form is the model's, log 9). -/
def Obligations.MemoryStaysCanonical : Prop :=
  (∀ (s : State) (a : Word) (w : Width) (v : Word), Memory.wf s.mem = true →
    Memory.wf (s.storeValue a w v).mem = true ∧
    (s.storeValue a w v = s ↔ ∀ b ∈ touched a w, s.byteAt b = byteAfterStore s a w v b)) ∧
  (∀ m k : List Host.Cell, Memory.wf m = true → Memory.wf k = true →
    (∀ a : Word, Memory.get m a.toNat = Memory.get k a.toNat) → m = k)

/-- R70, R570: what reset leaves where the spec gives a value: PC, mode, masks, instruction set, byte order, IT state. -/
def Obligations.ResetState : Prop :=
  ∀ c : Config,
    let s := State.resetFor c
    s.pc = c.vectorBase ∧ s.cpsr.mode = .svc ∧ s.cpsr.i = true ∧ s.cpsr.f = true ∧ (c.haveV6 = true → s.cpsr.a = true) ∧
    (c.haveThumb = true → s.cpsr.t = c.thumbExceptionEntry) ∧ s.cpsr.j = false ∧
    (c.haveV6 = true → s.cpsr.e = c.dataBigEndianAtReset) ∧ s.cpsr.it = 0#8 ∧ s.cfg = c ∧
    State.reset = State.resetFor Config.atReset

/-- R142, R114: words decode to the instructions their rows name, and words that match no row to none. -/
def Obligations.DecodeWords : Prop :=
  decodeCode (.a32 0xE2810001#32) = some (.add (.a32 .al) false 0#4 1#4 (.immA 0#4 1#8)) ∧
  decodeCode (.a32 0xE0910182#32) = some (.add (.a32 .al) true 0#4 1#4 (.reg 2#4 .lsl 3#5)) ∧
  decodeCode (.a32 0xE0000291#32) = some (.mul (.a32 .al) false 0#4 1#4 2#4) ∧
  decodeCode (.a32 0xE5910004#32) = some (.ldr (.a32 .al) 0#4 (.aImm .offset true 1#4 4#12)) ∧
  decodeCode (.a32 0xE12FFF1E#32) = some (.bx (.a32 .al) 14#4) ∧
  decodeCode (.a32 0xEAFFFFFE#32) = some (.b (.a32 .al 0xFFFFFE#24)) ∧
  decodeCode (.t32 0xF1010001#32) = some (.add .thumb false 0#4 1#4 (.immT 1#12)) ∧
  decodeCode (.t32 0xF04F10FF#32) = some (.mov .thumb false 0#4 (.immT 0x1FF#12)) ∧
  decodeCode (.t16 0xBF0C#16) = some (.it 0#4 12#4) ∧ decodeCode (.t16 0xB108#16) = some (.cbz false 1#5 0#3) ∧
  decodeCode (.t16 0x4770#16) = some (.bx .thumb 14#4) ∧ decodeCode (.a32 0xEF000000#32) = none ∧
  decodeCode (.a32 0xE320F000#32) = none ∧ decodeCode (.t16 0xBF00#16) = none

/-- R114, R117 to R119: every well-formed instruction has an encoding, and decoding it gives the instruction back. -/
def Obligations.DecodeOfEncode : Prop :=
  ∀ i : Instr, i.wellFormed = true → ∃ c, encode i = some c ∧ decodeCode c = some i ∧
    c.isThumb = (encodingOf i).isThumb ∧ BitVec.ofNat 32 c.size = sizeOf2 i

/-- The invariant of a run holds in the reset state (with the parameters of log 1, 2, 3). -/
def Obligations.InvariantHoldsAtReset : Prop :=
  RunInv State.reset ∧ ∀ c : Config, c.wf = true → RunInv (State.resetFor c)

/-- R40, R44, R50, R54: every step keeps the invariant: aligned PC, no IT state in ARM state, no Jazelle state, absent fields zero, canonical memory. -/
def Obligations.InvariantKept : Prop :=
  ∀ s t : State, RunInv s → step s = .next t → RunInv t
end

