-- ==== Sys2Proof/Laws/Codec.lean ====
section
/-! SUPPORT. Laws of the encodings: a pattern's fields are read back from the word they make, no two rows of an
instruction set read one word, and so the row that made a word is the row that reads it (R114). -/

namespace Sys2Proof

-- One proof at a time: the evaluations below need much memory side by side.
set_option Elab.async false

/-- The field values are in range, and differ from what a `fx` segment excludes. -/
def fits : List Seg → List Nat → Bool
  | [], [] => true
  | .k w v :: p, xs => decide (v < 2 ^ w) && fits p xs
  | .f w :: p, x :: xs => decide (x < 2 ^ w) && fits p xs
  | .fx w v :: p, x :: xs => decide (x < 2 ^ w) && decide (x ≠ v) && fits p xs
  | _, _ => false

/-- A word made by a pattern has no more bits than the pattern. -/
theorem assemble_lt (p : List Seg) (xs : List Nat) (h : fits p xs = true) : assemble p xs < 2 ^ Pat.width p := by
  have step : ∀ w n x r : Nat, x < 2 ^ w → r < 2 ^ n → x * 2 ^ n + r < 2 ^ (w + n) := by
    intro w n x r hx hr
    rw [Nat.pow_add]
    have : x * 2 ^ n + 2 ^ n ≤ 2 ^ w * 2 ^ n := by
      rw [← Nat.succ_mul]
      exact Nat.mul_le_mul_right _ hx
    omega
  induction p generalizing xs with
  | nil => cases xs <;> simp_all [fits, assemble, Pat.width]
  | cons g p ih =>
    cases g with
    | k w v =>
      simp only [fits, Bool.and_eq_true, decide_eq_true_eq] at h
      simp only [assemble, Pat.width, Seg.width]
      exact step w _ v _ h.1 (ih xs h.2)
    | f w =>
      cases xs with
      | nil => simp [fits] at h
      | cons x xs =>
        simp only [fits, Bool.and_eq_true, decide_eq_true_eq] at h
        simp only [assemble, Pat.width, Seg.width]
        exact step w _ x _ h.1 (ih xs h.2)
    | fx w v =>
      cases xs with
      | nil => simp [fits] at h
      | cons x xs =>
        simp only [fits, Bool.and_eq_true, decide_eq_true_eq] at h
        simp only [assemble, Pat.width, Seg.width]
        exact step w _ x _ h.1.1 (ih xs h.2)

/-- The top segment and the rest of a word. -/
theorem cut (x r n : Nat) (h : r < 2 ^ n) : (x * 2 ^ n + r) / 2 ^ n = x ∧ (x * 2 ^ n + r) % 2 ^ n = r := by
  have hp : 0 < 2 ^ n := Nat.two_pow_pos n
  constructor
  · rw [Nat.add_comm, Nat.add_mul_div_right _ _ hp, Nat.div_eq_of_lt h, Nat.zero_add]
  · rw [Nat.add_comm, Nat.add_mul_mod_self_right, Nat.mod_eq_of_lt h]

/-- A pattern reads back the field values of the word they make. -/
theorem split_assemble (p : List Seg) (xs : List Nat) (h : fits p xs = true) :
    split p (assemble p xs) = some xs := by
  induction p generalizing xs with
  | nil => cases xs <;> simp_all [fits, assemble, split]
  | cons g p ih =>
    cases g with
    | k w v =>
      simp only [fits, Bool.and_eq_true, decide_eq_true_eq] at h
      obtain ⟨h1, h2⟩ := cut v _ _ (assemble_lt p xs h.2)
      simp only [assemble, split, h1, h2, if_true, ih xs h.2]
    | f w =>
      cases xs with
      | nil => simp [fits] at h
      | cons x xs =>
        simp only [fits, Bool.and_eq_true, decide_eq_true_eq] at h
        obtain ⟨h1, h2⟩ := cut x _ _ (assemble_lt p xs h.2)
        simp only [assemble, split, h1, h2, h.1, if_true, ih xs h.2, Option.map_some]
    | fx w v =>
      cases xs with
      | nil => simp [fits] at h
      | cons x xs =>
        simp only [fits, Bool.and_eq_true, decide_eq_true_eq] at h
        obtain ⟨h1, h2⟩ := cut x _ _ (assemble_lt p xs h.2)
        simp only [assemble, split, h1, h2, h.1.1, ne_eq, h.1.2, not_false_eq_true, and_self, if_true, ih xs h.2,
          Option.map_some]

/-- What a pattern reads fits it and makes the word again; its fixed values must fit their widths. -/
theorem split_eq_some (p : List Seg) (w : Nat) (xs : List Nat) (hw : ∀ n v, Seg.k n v ∈ p → v < 2 ^ n)
    (h : split p w = some xs) : fits p xs = true ∧ assemble p xs = w := by
  induction p generalizing w xs with
  | nil =>
    simp only [split] at h
    split at h
    · cases h
      simp_all [fits, assemble]
    · cases h
  | cons g p ih =>
    have hw' : ∀ n v, Seg.k n v ∈ p → v < 2 ^ n := fun n v hm => hw n v (List.mem_cons_of_mem _ hm)
    have hd : ∀ n : Nat, w / 2 ^ n * 2 ^ n + w % 2 ^ n = w := fun n => by
      rw [Nat.mul_comm]
      exact Nat.div_add_mod w (2 ^ n)
    cases g with
    | k n v =>
      simp only [split] at h
      split at h
      · rename_i hv
        obtain ⟨h1, h2⟩ := ih _ xs hw' h
        refine ⟨?_, ?_⟩
        · simp only [fits, Bool.and_eq_true, decide_eq_true_eq]
          exact ⟨hw n v (List.mem_cons_self), h1⟩
        · simp only [assemble, h2, ← hv, hd]
      · cases h
    | f n =>
      simp only [split] at h
      split at h
      · rename_i hv
        obtain ⟨ys, hy, rfl⟩ := Option.map_eq_some_iff.1 h
        obtain ⟨h1, h2⟩ := ih _ ys hw' hy
        refine ⟨?_, ?_⟩
        · simp only [fits, Bool.and_eq_true, decide_eq_true_eq]
          exact ⟨hv, h1⟩
        · simp only [assemble, h2, hd]
      · cases h
    | fx n v =>
      simp only [split] at h
      split at h
      · rename_i hv
        obtain ⟨ys, hy, rfl⟩ := Option.map_eq_some_iff.1 h
        obtain ⟨h1, h2⟩ := ih _ ys hw' hy
        refine ⟨?_, ?_⟩
        · simp only [fits, Bool.and_eq_true, decide_eq_true_eq]
          exact ⟨⟨hv.1, hv.2⟩, h1⟩
        · simp only [assemble, h2, hd]
      · cases h

/-! ### Rows that read no common word -/

/-- The bits that a pattern fixes. -/
def fixedMask : List Seg → Nat
  | [] => 0
  | .k w _ :: p => (2 ^ w - 1) * 2 ^ Pat.width p + fixedMask p
  | .f _ :: p => fixedMask p
  | .fx _ _ :: p => fixedMask p

/-- What a pattern fixes them to. -/
def fixedValue : List Seg → Nat
  | [] => 0
  | .k _ v :: p => v * 2 ^ Pat.width p + fixedValue p
  | .f _ :: p => fixedValue p
  | .fx _ _ :: p => fixedValue p

/-- The fields of a pattern that exclude a value: lowest bit, width, value excluded. -/
def exclusions : List Seg → List (Nat × Nat × Nat)
  | [] => []
  | .k _ _ :: p => exclusions p
  | .f _ :: p => exclusions p
  | .fx w v :: p => (Pat.width p, w, v) :: exclusions p

/-- One of the fields that exclude a value holds that very value wherever the mask and the value of another pattern
hold. -/
def excludes (m v : Nat) (l : List (Nat × Nat × Nat)) : Bool :=
  l.any fun x => m / 2 ^ x.1 % 2 ^ x.2.1 == 2 ^ x.2.1 - 1 && v / 2 ^ x.1 % 2 ^ x.2.1 == x.2.2

/-- A pattern in short: mask, value, exclusions. -/
abbrev Key := Nat × Nat × List (Nat × Nat × Nat)

/-- See `Key`. -/
def keyOf (p : List Seg) : Key := (fixedMask p, fixedValue p, exclusions p)

/-- No word matches both: they fix some bit differently, or one fixes a field to a value the other excludes. -/
def clash (a b : Key) : Bool :=
  Nat.land (Nat.land a.1 b.1) (Nat.xor a.2.1 b.2.1) != 0 || excludes a.1 a.2.1 b.2.2 || excludes b.1 b.2.1 a.2.2

theorem fixedMask_lt (p : List Seg) : fixedMask p < 2 ^ Pat.width p := by
  induction p with
  | nil => simp [fixedMask, Pat.width]
  | cons g p ih =>
    have hle : 2 ^ Pat.width p ≤ 2 ^ Pat.width (g :: p) :=
      Nat.pow_le_pow_right (by norm_num) (by simp [Pat.width])
    cases g with
    | k w v =>
      simp only [fixedMask, Pat.width, Seg.width, Nat.pow_add, Nat.sub_mul, Nat.one_mul]
      have : 2 ^ Pat.width p ≤ 2 ^ w * 2 ^ Pat.width p := Nat.le_mul_of_pos_left _ (Nat.two_pow_pos w)
      omega
    | f w => exact lt_of_lt_of_le ih hle
    | fx w v => exact lt_of_lt_of_le ih hle

/-- A word made by a pattern has the pattern's fixed bits. -/
theorem assemble_testBit (p : List Seg) (xs : List Nat) (h : fits p xs = true) (i : Nat)
    (hi : (fixedMask p).testBit i = true) : (assemble p xs).testBit i = (fixedValue p).testBit i := by
  have key : ∀ x r n : Nat, r < 2 ^ n →
      (x * 2 ^ n + r).testBit i = if i < n then r.testBit i else x.testBit (i - n) := by
    intro x r n hr
    rw [Nat.mul_comm, Nat.testBit_two_pow_mul_add _ hr]
  have small : ∀ r n : Nat, r < 2 ^ n → n ≤ i → r.testBit i = false := fun r n hr hn =>
    Nat.testBit_lt_two_pow (lt_of_lt_of_le hr (Nat.pow_le_pow_right (by norm_num) hn))
  have value_lt : ∀ (q : List Seg) (ys : List Nat), fits q ys = true → fixedValue q < 2 ^ Pat.width q := by
    intro q
    induction q with
    | nil => intro ys _; simp [fixedValue, Pat.width]
    | cons g q ihq =>
      intro ys hf
      have hle : 2 ^ Pat.width q ≤ 2 ^ Pat.width (g :: q) :=
        Nat.pow_le_pow_right (by norm_num) (by simp [Pat.width])
      cases g with
      | k w v =>
        simp only [fits, Bool.and_eq_true, decide_eq_true_eq] at hf
        have hq := ihq ys hf.2
        simp only [fixedValue, Pat.width, Seg.width, Nat.pow_add]
        have : v * 2 ^ Pat.width q + 2 ^ Pat.width q ≤ 2 ^ w * 2 ^ Pat.width q := by
          rw [← Nat.succ_mul]
          exact Nat.mul_le_mul_right _ hf.1
        omega
      | f w =>
        cases ys with
        | nil => simp [fits] at hf
        | cons y ys =>
          simp only [fits, Bool.and_eq_true] at hf
          exact lt_of_lt_of_le (ihq ys hf.2) hle
      | fx w v =>
        cases ys with
        | nil => simp [fits] at hf
        | cons y ys =>
          simp only [fits, Bool.and_eq_true] at hf
          exact lt_of_lt_of_le (ihq ys hf.2) hle
  induction p generalizing xs with
  | nil => simp [fixedMask] at hi
  | cons g p ih =>
    cases g with
    | k w v =>
      simp only [fits, Bool.and_eq_true] at h
      simp only [fixedMask] at hi
      simp only [assemble, fixedValue]
      rw [key _ _ _ (fixedMask_lt p)] at hi
      rw [key _ _ _ (assemble_lt p xs h.2), key _ _ _ (value_lt p xs h.2)]
      split
      · rename_i hlt
        rw [if_pos hlt] at hi
        exact ih xs h.2 hi
      · rfl
    | f w =>
      cases xs with
      | nil => simp [fits] at h
      | cons x xs =>
        simp only [fits, Bool.and_eq_true] at h
        simp only [fixedMask] at hi
        simp only [assemble, fixedValue]
        rw [key _ _ _ (assemble_lt p xs h.2)]
        split
        · exact ih xs h.2 hi
        · rename_i hlt
          rw [small _ _ (fixedMask_lt p) (by omega)] at hi
          cases hi
    | fx w v =>
      cases xs with
      | nil => simp [fits] at h
      | cons x xs =>
        simp only [fits, Bool.and_eq_true] at h
        simp only [fixedMask] at hi
        simp only [assemble, fixedValue]
        rw [key _ _ _ (assemble_lt p xs h.2)]
        split
        · exact ih xs h.2 hi
        · rename_i hlt
          rw [small _ _ (fixedMask_lt p) (by omega)] at hi
          cases hi

/-- A word made by a pattern holds no excluded value. -/
theorem assemble_excluded (p : List Seg) (xs : List Nat) (h : fits p xs = true) (x : Nat × Nat × Nat)
    (hx : x ∈ exclusions p) : assemble p xs / 2 ^ x.1 % 2 ^ x.2.1 ≠ x.2.2 := by
  have low : ∀ (q : List Seg) (y : Nat × Nat × Nat), y ∈ exclusions q → y.1 + y.2.1 ≤ Pat.width q := by
    intro q
    induction q with
    | nil => intro y hy; simp [exclusions] at hy
    | cons g q ihq =>
      intro y hy
      simp only [Pat.width]
      cases g with
      | k w v => have := ihq y hy; omega
      | f w => have := ihq y hy; omega
      | fx w v =>
        simp only [exclusions, List.mem_cons] at hy
        rcases hy with rfl | hy
        · simp only [Seg.width]; omega
        · have := ihq y hy; omega
  have drop : ∀ (a r n lo w : Nat), lo + w ≤ n → (a * 2 ^ n + r) / 2 ^ lo % 2 ^ w = r / 2 ^ lo % 2 ^ w := by
    intro a r n lo w hl
    obtain ⟨d, rfl⟩ : ∃ d, n = lo + w + d := ⟨n - (lo + w), by omega⟩
    have : a * 2 ^ (lo + w + d) + r = r + 2 ^ lo * (2 ^ w * (a * 2 ^ d)) := by
      rw [Nat.pow_add, Nat.pow_add]
      ring
    rw [this, Nat.add_mul_div_left _ _ (Nat.two_pow_pos lo), Nat.add_mul_mod_self_left]
  induction p generalizing xs with
  | nil => simp [exclusions] at hx
  | cons g p ih =>
    cases g with
    | k w v =>
      simp only [fits, Bool.and_eq_true] at h
      simp only [exclusions] at hx
      simp only [assemble]
      rw [drop _ _ _ _ _ (low p x hx)]
      exact ih xs h.2 hx
    | f w =>
      cases xs with
      | nil => simp [fits] at h
      | cons y xs =>
        simp only [fits, Bool.and_eq_true] at h
        simp only [exclusions] at hx
        simp only [assemble]
        rw [drop _ _ _ _ _ (low p x hx)]
        exact ih xs h.2 hx
    | fx w v =>
      cases xs with
      | nil => simp [fits] at h
      | cons y xs =>
        simp only [fits, Bool.and_eq_true, decide_eq_true_eq] at h
        simp only [exclusions, List.mem_cons] at hx
        simp only [assemble]
        rcases hx with rfl | hx
        · rw [(cut y _ _ (assemble_lt p xs h.2)).1, Nat.mod_eq_of_lt h.1.1]
          exact h.1.2
        · rw [drop _ _ _ _ _ (low p x hx)]
          exact ih xs h.2 hx

/-- A field that a pattern fixes whole holds the value it is fixed to. -/
theorem assemble_field (p : List Seg) (xs : List Nat) (h : fits p xs = true) (lo w : Nat)
    (hm : fixedMask p / 2 ^ lo % 2 ^ w = 2 ^ w - 1) :
    assemble p xs / 2 ^ lo % 2 ^ w = fixedValue p / 2 ^ lo % 2 ^ w := by
  apply Nat.eq_of_testBit_eq
  intro i
  simp only [Nat.testBit_mod_two_pow, Nat.testBit_div_two_pow]
  by_cases hi : i < w
  · simp only [hi, decide_true, Bool.true_and]
    apply assemble_testBit p xs h
    have := congrArg (fun n => n.testBit i) hm
    simp only [Nat.testBit_mod_two_pow, Nat.testBit_div_two_pow, hi, decide_true, Bool.true_and,
      Nat.testBit_two_pow_sub_one] at this
    exact this
  · simp [hi]

/-- Where one pattern fixes a field to the value that the other excludes, no word matches both. -/
theorem excludes_ne (p q : List Seg) (xs ys : List Nat) (hp : fits p xs = true) (hq : fits q ys = true)
    (h : excludes (fixedMask p) (fixedValue p) (exclusions q) = true) : assemble p xs ≠ assemble q ys := by
  intro e
  simp only [excludes, List.any_eq_true, Bool.and_eq_true, beq_iff_eq] at h
  obtain ⟨x, hx, hm, hv⟩ := h
  apply assemble_excluded q ys hq x hx
  rw [← e, assemble_field p xs hp _ _ hm, hv]

/-- Clashing patterns match no common word. -/
theorem clash_ne (p q : List Seg) (xs ys : List Nat) (hp : fits p xs = true) (hq : fits q ys = true)
    (h : clash (keyOf p) (keyOf q) = true) : assemble p xs ≠ assemble q ys := by
  simp only [clash, keyOf, Bool.or_eq_true, bne_iff_ne] at h
  rcases h with (h | h) | h
  · intro e
    obtain ⟨i, hi⟩ := Nat.exists_testBit_of_ne_zero h
    have hi' : ((fixedMask p &&& fixedMask q) &&& (fixedValue p ^^^ fixedValue q)).testBit i = true := hi
    simp only [Nat.testBit_and, Nat.testBit_xor, Bool.and_eq_true] at hi'
    obtain ⟨⟨h1, h2⟩, h3⟩ := hi'
    rw [← assemble_testBit p xs hp i h1, ← assemble_testBit q ys hq i h2, e] at h3
    simp at h3
  · exact excludes_ne p q xs ys hp hq h
  · exact (excludes_ne q p ys xs hq hp h).symm

/-- Fixed values fit their widths. -/
def wellSized (p : List Seg) : Bool :=
  p.all fun g => match g with
    | .k n v => decide (v < 2 ^ n)
    | .f _ => true
    | .fx _ _ => true

theorem wellSized_k (p : List Seg) (h : wellSized p = true) : ∀ n v, Seg.k n v ∈ p → v < 2 ^ n := by
  intro n v hm
  simpa using List.all_eq_true.1 h _ hm

/-- A pattern that clashes with the one that made a word does not read it. -/
theorem split_none_of_clash (p q : List Seg) (xs : List Nat) (hp : fits p xs = true) (hq : wellSized q = true)
    (h : clash (keyOf p) (keyOf q) = true) : split q (assemble p xs) = none := by
  cases hs : split q (assemble p xs) with
  | none => rfl
  | some ys =>
    obtain ⟨h1, h2⟩ := split_eq_some q _ ys (wellSized_k q hq) hs
    exact absurd h2.symm (clash_ne p q xs ys hp h1 h)

/-- In a list of rows that clash pairwise, the row that made a word is the row that reads it. -/
theorem readRows_assemble (rows : List Row) (r : Row) (xs : List Nat) (hr : r ∈ rows)
    (hw : ∀ x ∈ rows, wellSized x.pat = true)
    (hc : (rows.map fun x => keyOf x.pat).Pairwise fun a b => clash a b = true) (hx : fits r.pat xs = true)
    (i : Instr) (hb : r.build xs = some i) : readRows rows (assemble r.pat xs) = some i := by
  have hsym : ∀ a b, clash a b = true → clash b a = true := by
    intro a b h
    simp only [clash, Bool.or_eq_true, bne_iff_ne] at h ⊢
    have e : Nat.land (Nat.land b.1 a.1) (Nat.xor b.2.1 a.2.1) = Nat.land (Nat.land a.1 b.1) (Nat.xor a.2.1 b.2.1) := by
      show (b.1 &&& a.1) &&& (b.2.1 ^^^ a.2.1) = (a.1 &&& b.1) &&& (a.2.1 ^^^ b.2.1)
      rw [Nat.and_comm b.1, Nat.xor_comm b.2.1]
    rw [e]
    tauto
  induction rows with
  | nil => cases hr
  | cons q rows ih =>
    simp only [List.map_cons, List.pairwise_cons] at hc
    simp only [readRows]
    rcases List.mem_cons.1 hr with rfl | hm
    · simp [Row.read, split_assemble _ _ hx, hb]
    · have hq : split q.pat (assemble r.pat xs) = none := by
        apply split_none_of_clash _ _ _ hx (hw q (List.mem_cons_self))
        exact hsym _ _ (hc.1 _ (List.mem_map_of_mem (f := fun x => keyOf x.pat) hm))
      simp only [Row.read, hq]
      exact ih hm (fun x hx' => hw x (List.mem_cons_of_mem _ hx')) hc.2

/-! ### The rows of the opcode table do not overlap -/

/-- Every two of the keys clash. -/
def allClash : List Key → Bool
  | [] => true
  | a :: l => l.all (fun b => clash a b) && allClash l

theorem pairwise_of_allClash (l : List Key) (h : allClash l = true) : l.Pairwise fun a b => clash a b = true := by
  induction l with
  | nil => exact .nil
  | cons a l ih =>
    simp only [allClash, Bool.and_eq_true, List.all_eq_true] at h
    exact .cons h.1 (ih h.2)

/-- No two A32 rows read one word. -/
theorem rowsA32_clash : (rowsA32.map fun x => keyOf x.pat).Pairwise fun a b => clash a b = true :=
  pairwise_of_allClash _ (by decide +kernel)

/-- No two T32 rows read one word. -/
theorem rowsT32_clash : (rowsT32.map fun x => keyOf x.pat).Pairwise fun a b => clash a b = true :=
  pairwise_of_allClash _ (by decide +kernel)

/-- No two T16 rows read one word. -/
theorem rowsT16_clash : (rowsT16.map fun x => keyOf x.pat).Pairwise fun a b => clash a b = true :=
  pairwise_of_allClash _ (by decide +kernel)

theorem rowsA32_wellSized : ∀ x ∈ rowsA32, wellSized x.pat = true :=
  List.all_eq_true.1 (by decide +kernel : rowsA32.all (fun x => wellSized x.pat) = true)

theorem rowsT32_wellSized : ∀ x ∈ rowsT32, wellSized x.pat = true :=
  List.all_eq_true.1 (by decide +kernel : rowsT32.all (fun x => wellSized x.pat) = true)

theorem rowsT16_wellSized : ∀ x ∈ rowsT16, wellSized x.pat = true :=
  List.all_eq_true.1 (by decide +kernel : rowsT16.all (fun x => wellSized x.pat) = true)

/-- Every A32 pattern has 32 bits. -/
theorem rowsA32_width : ∀ x ∈ rowsA32, Pat.width x.pat = 32 := by
  have h : rowsA32.all (fun x => Pat.width x.pat == 32) = true := by decide +kernel
  intro x hx
  simpa using List.all_eq_true.1 h x hx

/-- Every T32 pattern has 32 bits. -/
theorem rowsT32_width : ∀ x ∈ rowsT32, Pat.width x.pat = 32 := by
  have h : rowsT32.all (fun x => Pat.width x.pat == 32) = true := by decide +kernel
  intro x hx
  simpa using List.all_eq_true.1 h x hx

/-- Every T16 pattern has 16 bits. -/
theorem rowsT16_width : ∀ x ∈ rowsT16, Pat.width x.pat = 16 := by
  have h : rowsT16.all (fun x => Pat.width x.pat == 16) = true := by decide +kernel
  intro x hx
  simpa using List.all_eq_true.1 h x hx

/-- The word that an A32 row makes decodes to what the row says. -/
theorem decodeCode_a32 (r : Row) (xs : List Nat) (i : Instr) (hr : r ∈ rowsA32) (hx : fits r.pat xs = true)
    (hb : r.build xs = some i) : decodeCode (.a32 (BitVec.ofNat 32 (assemble r.pat xs))) = some i := by
  have hl := assemble_lt r.pat xs hx
  rw [rowsA32_width r hr] at hl
  simp only [decodeCode, BitVec.toNat_ofNat, Nat.mod_eq_of_lt hl]
  exact readRows_assemble _ r xs hr rowsA32_wellSized rowsA32_clash hx i hb

/-- The word that a T32 row makes decodes to what the row says. -/
theorem decodeCode_t32 (r : Row) (xs : List Nat) (i : Instr) (hr : r ∈ rowsT32) (hx : fits r.pat xs = true)
    (hb : r.build xs = some i) : decodeCode (.t32 (BitVec.ofNat 32 (assemble r.pat xs))) = some i := by
  have hl := assemble_lt r.pat xs hx
  rw [rowsT32_width r hr] at hl
  simp only [decodeCode, BitVec.toNat_ofNat, Nat.mod_eq_of_lt hl]
  exact readRows_assemble _ r xs hr rowsT32_wellSized rowsT32_clash hx i hb

/-- The halfword that a T16 row makes decodes to what the row says. -/
theorem decodeCode_t16 (r : Row) (xs : List Nat) (i : Instr) (hr : r ∈ rowsT16) (hx : fits r.pat xs = true)
    (hb : r.build xs = some i) : decodeCode (.t16 (BitVec.ofNat 16 (assemble r.pat xs))) = some i := by
  have hl := assemble_lt r.pat xs hx
  rw [rowsT16_width r hr] at hl
  simp only [decodeCode, BitVec.toNat_ofNat, Nat.mod_eq_of_lt hl]
  exact readRows_assemble _ r xs hr rowsT16_wellSized rowsT16_clash hx i hb

end Sys2Proof
end

