-- ==== Sys2Proof/Laws/State.lean ====
section
/-! SUPPORT. One lemma for each field that an update of the state leaves alone, so that no later proof unfolds the
update. -/

namespace Sys2Proof.Machine

open Sys2Proof

/-! ### `State.setReg` -/

@[simp] theorem State.setReg_cfg (s : State) (i : Reg) (v : Word) :
    (s.setReg i v).cfg = s.cfg := by
  unfold State.setReg; split <;> rfl

@[simp] theorem State.setReg_pc (s : State) (i : Reg) (v : Word) :
    (s.setReg i v).pc = s.pc := by
  unfold State.setReg; split <;> rfl

@[simp] theorem State.setReg_cpsr (s : State) (i : Reg) (v : Word) :
    (s.setReg i v).cpsr = s.cpsr := by
  unfold State.setReg; split <;> rfl

@[simp] theorem State.setReg_spsrFiq (s : State) (i : Reg) (v : Word) :
    (s.setReg i v).spsrFiq = s.spsrFiq := by
  unfold State.setReg; split <;> rfl

@[simp] theorem State.setReg_spsrIrq (s : State) (i : Reg) (v : Word) :
    (s.setReg i v).spsrIrq = s.spsrIrq := by
  unfold State.setReg; split <;> rfl

@[simp] theorem State.setReg_spsrSvc (s : State) (i : Reg) (v : Word) :
    (s.setReg i v).spsrSvc = s.spsrSvc := by
  unfold State.setReg; split <;> rfl

@[simp] theorem State.setReg_spsrAbt (s : State) (i : Reg) (v : Word) :
    (s.setReg i v).spsrAbt = s.spsrAbt := by
  unfold State.setReg; split <;> rfl

@[simp] theorem State.setReg_spsrUnd (s : State) (i : Reg) (v : Word) :
    (s.setReg i v).spsrUnd = s.spsrUnd := by
  unfold State.setReg; split <;> rfl

@[simp] theorem State.setReg_ac (s : State) (i : Reg) (v : Word) :
    (s.setReg i v).ac = s.ac := by
  unfold State.setReg; split <;> rfl

@[simp] theorem State.setReg_mem (s : State) (i : Reg) (v : Word) :
    (s.setReg i v).mem = s.mem := by
  unfold State.setReg; split <;> rfl

@[simp] theorem State.setReg_stepNo (s : State) (i : Reg) (v : Word) :
    (s.setReg i v).stepNo = s.stepNo := by
  unfold State.setReg; split <;> rfl

@[simp] theorem State.setReg_draws (s : State) (i : Reg) (v : Word) :
    (s.setReg i v).draws = s.draws := by
  unfold State.setReg; split <;> rfl

/-! ### `State.setPair` -/

@[simp] theorem State.setPair_cfg (s : State) (lo hi : Reg) (v : BitVec 64) :
    (s.setPair lo hi v).cfg = s.cfg := by
  simp [State.setPair]

@[simp] theorem State.setPair_pc (s : State) (lo hi : Reg) (v : BitVec 64) :
    (s.setPair lo hi v).pc = s.pc := by
  simp [State.setPair]

@[simp] theorem State.setPair_cpsr (s : State) (lo hi : Reg) (v : BitVec 64) :
    (s.setPair lo hi v).cpsr = s.cpsr := by
  simp [State.setPair]

@[simp] theorem State.setPair_spsrFiq (s : State) (lo hi : Reg) (v : BitVec 64) :
    (s.setPair lo hi v).spsrFiq = s.spsrFiq := by
  simp [State.setPair]

@[simp] theorem State.setPair_spsrIrq (s : State) (lo hi : Reg) (v : BitVec 64) :
    (s.setPair lo hi v).spsrIrq = s.spsrIrq := by
  simp [State.setPair]

@[simp] theorem State.setPair_spsrSvc (s : State) (lo hi : Reg) (v : BitVec 64) :
    (s.setPair lo hi v).spsrSvc = s.spsrSvc := by
  simp [State.setPair]

@[simp] theorem State.setPair_spsrAbt (s : State) (lo hi : Reg) (v : BitVec 64) :
    (s.setPair lo hi v).spsrAbt = s.spsrAbt := by
  simp [State.setPair]

@[simp] theorem State.setPair_spsrUnd (s : State) (lo hi : Reg) (v : BitVec 64) :
    (s.setPair lo hi v).spsrUnd = s.spsrUnd := by
  simp [State.setPair]

@[simp] theorem State.setPair_ac (s : State) (lo hi : Reg) (v : BitVec 64) :
    (s.setPair lo hi v).ac = s.ac := by
  simp [State.setPair]

@[simp] theorem State.setPair_mem (s : State) (lo hi : Reg) (v : BitVec 64) :
    (s.setPair lo hi v).mem = s.mem := by
  simp [State.setPair]

@[simp] theorem State.setPair_stepNo (s : State) (lo hi : Reg) (v : BitVec 64) :
    (s.setPair lo hi v).stepNo = s.stepNo := by
  simp [State.setPair]

@[simp] theorem State.setPair_draws (s : State) (lo hi : Reg) (v : BitVec 64) :
    (s.setPair lo hi v).draws = s.draws := by
  simp [State.setPair]

/-! ### `State.withFlags` -/

@[simp] theorem State.withFlags_cfg (s : State) (sf : Bool) (p : Cpsr) :
    (s.withFlags sf p).cfg = s.cfg := by
  unfold State.withFlags; split <;> rfl

@[simp] theorem State.withFlags_regs (s : State) (sf : Bool) (p : Cpsr) :
    (s.withFlags sf p).regs = s.regs := by
  unfold State.withFlags; split <;> rfl

@[simp] theorem State.withFlags_pc (s : State) (sf : Bool) (p : Cpsr) :
    (s.withFlags sf p).pc = s.pc := by
  unfold State.withFlags; split <;> rfl

@[simp] theorem State.withFlags_spsrFiq (s : State) (sf : Bool) (p : Cpsr) :
    (s.withFlags sf p).spsrFiq = s.spsrFiq := by
  unfold State.withFlags; split <;> rfl

@[simp] theorem State.withFlags_spsrIrq (s : State) (sf : Bool) (p : Cpsr) :
    (s.withFlags sf p).spsrIrq = s.spsrIrq := by
  unfold State.withFlags; split <;> rfl

@[simp] theorem State.withFlags_spsrSvc (s : State) (sf : Bool) (p : Cpsr) :
    (s.withFlags sf p).spsrSvc = s.spsrSvc := by
  unfold State.withFlags; split <;> rfl

@[simp] theorem State.withFlags_spsrAbt (s : State) (sf : Bool) (p : Cpsr) :
    (s.withFlags sf p).spsrAbt = s.spsrAbt := by
  unfold State.withFlags; split <;> rfl

@[simp] theorem State.withFlags_spsrUnd (s : State) (sf : Bool) (p : Cpsr) :
    (s.withFlags sf p).spsrUnd = s.spsrUnd := by
  unfold State.withFlags; split <;> rfl

@[simp] theorem State.withFlags_ac (s : State) (sf : Bool) (p : Cpsr) :
    (s.withFlags sf p).ac = s.ac := by
  unfold State.withFlags; split <;> rfl

@[simp] theorem State.withFlags_mem (s : State) (sf : Bool) (p : Cpsr) :
    (s.withFlags sf p).mem = s.mem := by
  unfold State.withFlags; split <;> rfl

@[simp] theorem State.withFlags_stepNo (s : State) (sf : Bool) (p : Cpsr) :
    (s.withFlags sf p).stepNo = s.stepNo := by
  unfold State.withFlags; split <;> rfl

@[simp] theorem State.withFlags_draws (s : State) (sf : Bool) (p : Cpsr) :
    (s.withFlags sf p).draws = s.draws := by
  unfold State.withFlags; split <;> rfl

@[simp] theorem State.withFlags_cpsr (s : State) (sf : Bool) (p : Cpsr) :
    (s.withFlags sf p).cpsr = if sf then p else s.cpsr := by
  unfold State.withFlags; split <;> rfl

/-! ### `State.setRegQ` -/

@[simp] theorem State.setRegQ_cfg (s : State) (rd : Reg) (v : Word) (q : Bool) :
    (s.setRegQ rd v q).cfg = s.cfg := by
  simp [State.setRegQ]

@[simp] theorem State.setRegQ_pc (s : State) (rd : Reg) (v : Word) (q : Bool) :
    (s.setRegQ rd v q).pc = s.pc := by
  simp [State.setRegQ]

@[simp] theorem State.setRegQ_spsrFiq (s : State) (rd : Reg) (v : Word) (q : Bool) :
    (s.setRegQ rd v q).spsrFiq = s.spsrFiq := by
  simp [State.setRegQ]

@[simp] theorem State.setRegQ_spsrIrq (s : State) (rd : Reg) (v : Word) (q : Bool) :
    (s.setRegQ rd v q).spsrIrq = s.spsrIrq := by
  simp [State.setRegQ]

@[simp] theorem State.setRegQ_spsrSvc (s : State) (rd : Reg) (v : Word) (q : Bool) :
    (s.setRegQ rd v q).spsrSvc = s.spsrSvc := by
  simp [State.setRegQ]

@[simp] theorem State.setRegQ_spsrAbt (s : State) (rd : Reg) (v : Word) (q : Bool) :
    (s.setRegQ rd v q).spsrAbt = s.spsrAbt := by
  simp [State.setRegQ]

@[simp] theorem State.setRegQ_spsrUnd (s : State) (rd : Reg) (v : Word) (q : Bool) :
    (s.setRegQ rd v q).spsrUnd = s.spsrUnd := by
  simp [State.setRegQ]

@[simp] theorem State.setRegQ_ac (s : State) (rd : Reg) (v : Word) (q : Bool) :
    (s.setRegQ rd v q).ac = s.ac := by
  simp [State.setRegQ]

@[simp] theorem State.setRegQ_mem (s : State) (rd : Reg) (v : Word) (q : Bool) :
    (s.setRegQ rd v q).mem = s.mem := by
  simp [State.setRegQ]

@[simp] theorem State.setRegQ_stepNo (s : State) (rd : Reg) (v : Word) (q : Bool) :
    (s.setRegQ rd v q).stepNo = s.stepNo := by
  simp [State.setRegQ]

@[simp] theorem State.setRegQ_draws (s : State) (rd : Reg) (v : Word) (q : Bool) :
    (s.setRegQ rd v q).draws = s.draws := by
  simp [State.setRegQ]

@[simp] theorem State.setRegQ_regs (s : State) (rd : Reg) (v : Word) (q : Bool) :
    (s.setRegQ rd v q).regs = (s.setReg rd v).regs := by
  simp [State.setRegQ]

@[simp] theorem State.setRegQ_cpsr (s : State) (rd : Reg) (v : Word) (q : Bool) :
    (s.setRegQ rd v q).cpsr = s.cpsr.stickQ q := by
  simp [State.setRegQ]

/-! ### `State.setSpsr` -/

@[simp] theorem State.setSpsr_cfg (s : State) (v : Word) :
    (s.setSpsr v).cfg = s.cfg := by
  unfold State.setSpsr; split <;> rfl

@[simp] theorem State.setSpsr_regs (s : State) (v : Word) :
    (s.setSpsr v).regs = s.regs := by
  unfold State.setSpsr; split <;> rfl

@[simp] theorem State.setSpsr_pc (s : State) (v : Word) :
    (s.setSpsr v).pc = s.pc := by
  unfold State.setSpsr; split <;> rfl

@[simp] theorem State.setSpsr_cpsr (s : State) (v : Word) :
    (s.setSpsr v).cpsr = s.cpsr := by
  unfold State.setSpsr; split <;> rfl

@[simp] theorem State.setSpsr_ac (s : State) (v : Word) :
    (s.setSpsr v).ac = s.ac := by
  unfold State.setSpsr; split <;> rfl

@[simp] theorem State.setSpsr_mem (s : State) (v : Word) :
    (s.setSpsr v).mem = s.mem := by
  unfold State.setSpsr; split <;> rfl

@[simp] theorem State.setSpsr_stepNo (s : State) (v : Word) :
    (s.setSpsr v).stepNo = s.stepNo := by
  unfold State.setSpsr; split <;> rfl

@[simp] theorem State.setSpsr_draws (s : State) (v : Word) :
    (s.setSpsr v).draws = s.draws := by
  unfold State.setSpsr; split <;> rfl

/-! ### `State.storeValue` -/

@[simp] theorem State.storeValue_cfg (s : State) (addr : Word) (w : Width) (v : Word) :
    (s.storeValue addr w v).cfg = s.cfg := by
  rfl

@[simp] theorem State.storeValue_regs (s : State) (addr : Word) (w : Width) (v : Word) :
    (s.storeValue addr w v).regs = s.regs := by
  rfl

@[simp] theorem State.storeValue_pc (s : State) (addr : Word) (w : Width) (v : Word) :
    (s.storeValue addr w v).pc = s.pc := by
  rfl

@[simp] theorem State.storeValue_cpsr (s : State) (addr : Word) (w : Width) (v : Word) :
    (s.storeValue addr w v).cpsr = s.cpsr := by
  rfl

@[simp] theorem State.storeValue_spsrFiq (s : State) (addr : Word) (w : Width) (v : Word) :
    (s.storeValue addr w v).spsrFiq = s.spsrFiq := by
  rfl

@[simp] theorem State.storeValue_spsrIrq (s : State) (addr : Word) (w : Width) (v : Word) :
    (s.storeValue addr w v).spsrIrq = s.spsrIrq := by
  rfl

@[simp] theorem State.storeValue_spsrSvc (s : State) (addr : Word) (w : Width) (v : Word) :
    (s.storeValue addr w v).spsrSvc = s.spsrSvc := by
  rfl

@[simp] theorem State.storeValue_spsrAbt (s : State) (addr : Word) (w : Width) (v : Word) :
    (s.storeValue addr w v).spsrAbt = s.spsrAbt := by
  rfl

@[simp] theorem State.storeValue_spsrUnd (s : State) (addr : Word) (w : Width) (v : Word) :
    (s.storeValue addr w v).spsrUnd = s.spsrUnd := by
  rfl

@[simp] theorem State.storeValue_ac (s : State) (addr : Word) (w : Width) (v : Word) :
    (s.storeValue addr w v).ac = s.ac := by
  rfl

@[simp] theorem State.storeValue_stepNo (s : State) (addr : Word) (w : Width) (v : Word) :
    (s.storeValue addr w v).stepNo = s.stepNo := by
  rfl

@[simp] theorem State.storeValue_draws (s : State) (addr : Word) (w : Width) (v : Word) :
    (s.storeValue addr w v).draws = s.draws := by
  rfl

/-! ### `State.writeBase` -/

@[simp] theorem State.writeBase_cfg (s : State) (b : Option (Reg × Word)) :
    (s.writeBase b).cfg = s.cfg := by
  unfold State.writeBase; split <;> simp

@[simp] theorem State.writeBase_pc (s : State) (b : Option (Reg × Word)) :
    (s.writeBase b).pc = s.pc := by
  unfold State.writeBase; split <;> simp

@[simp] theorem State.writeBase_cpsr (s : State) (b : Option (Reg × Word)) :
    (s.writeBase b).cpsr = s.cpsr := by
  unfold State.writeBase; split <;> simp

@[simp] theorem State.writeBase_spsrFiq (s : State) (b : Option (Reg × Word)) :
    (s.writeBase b).spsrFiq = s.spsrFiq := by
  unfold State.writeBase; split <;> simp

@[simp] theorem State.writeBase_spsrIrq (s : State) (b : Option (Reg × Word)) :
    (s.writeBase b).spsrIrq = s.spsrIrq := by
  unfold State.writeBase; split <;> simp

@[simp] theorem State.writeBase_spsrSvc (s : State) (b : Option (Reg × Word)) :
    (s.writeBase b).spsrSvc = s.spsrSvc := by
  unfold State.writeBase; split <;> simp

@[simp] theorem State.writeBase_spsrAbt (s : State) (b : Option (Reg × Word)) :
    (s.writeBase b).spsrAbt = s.spsrAbt := by
  unfold State.writeBase; split <;> simp

@[simp] theorem State.writeBase_spsrUnd (s : State) (b : Option (Reg × Word)) :
    (s.writeBase b).spsrUnd = s.spsrUnd := by
  unfold State.writeBase; split <;> simp

@[simp] theorem State.writeBase_ac (s : State) (b : Option (Reg × Word)) :
    (s.writeBase b).ac = s.ac := by
  unfold State.writeBase; split <;> simp

@[simp] theorem State.writeBase_mem (s : State) (b : Option (Reg × Word)) :
    (s.writeBase b).mem = s.mem := by
  unfold State.writeBase; split <;> simp

@[simp] theorem State.writeBase_stepNo (s : State) (b : Option (Reg × Word)) :
    (s.writeBase b).stepNo = s.stepNo := by
  unfold State.writeBase; split <;> simp

@[simp] theorem State.writeBase_draws (s : State) (b : Option (Reg × Word)) :
    (s.writeBase b).draws = s.draws := by
  unfold State.writeBase; split <;> simp

/-! ### `mulFlags32` -/

@[simp] theorem mulFlags32_cfg (s : State) (r : Word) :
    (mulFlags32 s r).cfg = s.cfg := by
  unfold mulFlags32; split <;> rfl

@[simp] theorem mulFlags32_regs (s : State) (r : Word) :
    (mulFlags32 s r).regs = s.regs := by
  unfold mulFlags32; split <;> rfl

@[simp] theorem mulFlags32_pc (s : State) (r : Word) :
    (mulFlags32 s r).pc = s.pc := by
  unfold mulFlags32; split <;> rfl

@[simp] theorem mulFlags32_spsrFiq (s : State) (r : Word) :
    (mulFlags32 s r).spsrFiq = s.spsrFiq := by
  unfold mulFlags32; split <;> rfl

@[simp] theorem mulFlags32_spsrIrq (s : State) (r : Word) :
    (mulFlags32 s r).spsrIrq = s.spsrIrq := by
  unfold mulFlags32; split <;> rfl

@[simp] theorem mulFlags32_spsrSvc (s : State) (r : Word) :
    (mulFlags32 s r).spsrSvc = s.spsrSvc := by
  unfold mulFlags32; split <;> rfl

@[simp] theorem mulFlags32_spsrAbt (s : State) (r : Word) :
    (mulFlags32 s r).spsrAbt = s.spsrAbt := by
  unfold mulFlags32; split <;> rfl

@[simp] theorem mulFlags32_spsrUnd (s : State) (r : Word) :
    (mulFlags32 s r).spsrUnd = s.spsrUnd := by
  unfold mulFlags32; split <;> rfl

@[simp] theorem mulFlags32_ac (s : State) (r : Word) :
    (mulFlags32 s r).ac = s.ac := by
  unfold mulFlags32; split <;> rfl

@[simp] theorem mulFlags32_mem (s : State) (r : Word) :
    (mulFlags32 s r).mem = s.mem := by
  unfold mulFlags32; split <;> rfl

@[simp] theorem mulFlags32_stepNo (s : State) (r : Word) :
    (mulFlags32 s r).stepNo = s.stepNo := by
  unfold mulFlags32; split <;> rfl

/-! ### `mulFlags64` -/

@[simp] theorem mulFlags64_cfg (s : State) (r : BitVec 64) :
    (mulFlags64 s r).cfg = s.cfg := by
  unfold mulFlags64; split <;> rfl

@[simp] theorem mulFlags64_regs (s : State) (r : BitVec 64) :
    (mulFlags64 s r).regs = s.regs := by
  unfold mulFlags64; split <;> rfl

@[simp] theorem mulFlags64_pc (s : State) (r : BitVec 64) :
    (mulFlags64 s r).pc = s.pc := by
  unfold mulFlags64; split <;> rfl

@[simp] theorem mulFlags64_spsrFiq (s : State) (r : BitVec 64) :
    (mulFlags64 s r).spsrFiq = s.spsrFiq := by
  unfold mulFlags64; split <;> rfl

@[simp] theorem mulFlags64_spsrIrq (s : State) (r : BitVec 64) :
    (mulFlags64 s r).spsrIrq = s.spsrIrq := by
  unfold mulFlags64; split <;> rfl

@[simp] theorem mulFlags64_spsrSvc (s : State) (r : BitVec 64) :
    (mulFlags64 s r).spsrSvc = s.spsrSvc := by
  unfold mulFlags64; split <;> rfl

@[simp] theorem mulFlags64_spsrAbt (s : State) (r : BitVec 64) :
    (mulFlags64 s r).spsrAbt = s.spsrAbt := by
  unfold mulFlags64; split <;> rfl

@[simp] theorem mulFlags64_spsrUnd (s : State) (r : BitVec 64) :
    (mulFlags64 s r).spsrUnd = s.spsrUnd := by
  unfold mulFlags64; split <;> rfl

@[simp] theorem mulFlags64_ac (s : State) (r : BitVec 64) :
    (mulFlags64 s r).ac = s.ac := by
  unfold mulFlags64; split <;> rfl

@[simp] theorem mulFlags64_mem (s : State) (r : BitVec 64) :
    (mulFlags64 s r).mem = s.mem := by
  unfold mulFlags64; split <;> rfl

@[simp] theorem mulFlags64_stepNo (s : State) (r : BitVec 64) :
    (mulFlags64 s r).stepNo = s.stepNo := by
  unfold mulFlags64; split <;> rfl

/-! ### `nextPc` -/

@[simp] theorem nextPc_cfg (fm : Form) (s : State) :
    (nextPc fm s).cfg = s.cfg := by
  rfl

@[simp] theorem nextPc_regs (fm : Form) (s : State) :
    (nextPc fm s).regs = s.regs := by
  rfl

@[simp] theorem nextPc_cpsr (fm : Form) (s : State) :
    (nextPc fm s).cpsr = s.cpsr := by
  rfl

@[simp] theorem nextPc_spsrFiq (fm : Form) (s : State) :
    (nextPc fm s).spsrFiq = s.spsrFiq := by
  rfl

@[simp] theorem nextPc_spsrIrq (fm : Form) (s : State) :
    (nextPc fm s).spsrIrq = s.spsrIrq := by
  rfl

@[simp] theorem nextPc_spsrSvc (fm : Form) (s : State) :
    (nextPc fm s).spsrSvc = s.spsrSvc := by
  rfl

@[simp] theorem nextPc_spsrAbt (fm : Form) (s : State) :
    (nextPc fm s).spsrAbt = s.spsrAbt := by
  rfl

@[simp] theorem nextPc_spsrUnd (fm : Form) (s : State) :
    (nextPc fm s).spsrUnd = s.spsrUnd := by
  rfl

@[simp] theorem nextPc_ac (fm : Form) (s : State) :
    (nextPc fm s).ac = s.ac := by
  rfl

@[simp] theorem nextPc_mem (fm : Form) (s : State) :
    (nextPc fm s).mem = s.mem := by
  rfl

@[simp] theorem nextPc_stepNo (fm : Form) (s : State) :
    (nextPc fm s).stepNo = s.stepNo := by
  rfl

@[simp] theorem nextPc_draws (fm : Form) (s : State) :
    (nextPc fm s).draws = s.draws := by
  rfl

@[simp] theorem nextPc_pc (fm : Form) (s : State) :
    (nextPc fm s).pc = s.pc + fm.size := by
  rfl

/-! ### `advanceIt` -/

@[simp] theorem advanceIt_cfg (fm : Form) (s : State) :
    (advanceIt fm s).cfg = s.cfg := by
  unfold advanceIt; split <;> rfl

@[simp] theorem advanceIt_regs (fm : Form) (s : State) :
    (advanceIt fm s).regs = s.regs := by
  unfold advanceIt; split <;> rfl

@[simp] theorem advanceIt_pc (fm : Form) (s : State) :
    (advanceIt fm s).pc = s.pc := by
  unfold advanceIt; split <;> rfl

@[simp] theorem advanceIt_spsrFiq (fm : Form) (s : State) :
    (advanceIt fm s).spsrFiq = s.spsrFiq := by
  unfold advanceIt; split <;> rfl

@[simp] theorem advanceIt_spsrIrq (fm : Form) (s : State) :
    (advanceIt fm s).spsrIrq = s.spsrIrq := by
  unfold advanceIt; split <;> rfl

@[simp] theorem advanceIt_spsrSvc (fm : Form) (s : State) :
    (advanceIt fm s).spsrSvc = s.spsrSvc := by
  unfold advanceIt; split <;> rfl

@[simp] theorem advanceIt_spsrAbt (fm : Form) (s : State) :
    (advanceIt fm s).spsrAbt = s.spsrAbt := by
  unfold advanceIt; split <;> rfl

@[simp] theorem advanceIt_spsrUnd (fm : Form) (s : State) :
    (advanceIt fm s).spsrUnd = s.spsrUnd := by
  unfold advanceIt; split <;> rfl

@[simp] theorem advanceIt_ac (fm : Form) (s : State) :
    (advanceIt fm s).ac = s.ac := by
  unfold advanceIt; split <;> rfl

@[simp] theorem advanceIt_mem (fm : Form) (s : State) :
    (advanceIt fm s).mem = s.mem := by
  unfold advanceIt; split <;> rfl

@[simp] theorem advanceIt_stepNo (fm : Form) (s : State) :
    (advanceIt fm s).stepNo = s.stepNo := by
  unfold advanceIt; split <;> rfl

@[simp] theorem advanceIt_draws (fm : Form) (s : State) :
    (advanceIt fm s).draws = s.draws := by
  unfold advanceIt; split <;> rfl

@[simp] theorem advanceIt_cpsr (fm : Form) (s : State) :
    (advanceIt fm s).cpsr = { s.cpsr with it := if fm.enc.isThumb then itAdvance s.cpsr.it else s.cpsr.it } := by
  unfold advanceIt; split <;> rfl

/-! ### `skip` -/

@[simp] theorem skip_cfg (fm : Form) (s : State) :
    (skip fm s).cfg = s.cfg := by
  simp [skip]

@[simp] theorem skip_regs (fm : Form) (s : State) :
    (skip fm s).regs = s.regs := by
  simp [skip]

@[simp] theorem skip_spsrFiq (fm : Form) (s : State) :
    (skip fm s).spsrFiq = s.spsrFiq := by
  simp [skip]

@[simp] theorem skip_spsrIrq (fm : Form) (s : State) :
    (skip fm s).spsrIrq = s.spsrIrq := by
  simp [skip]

@[simp] theorem skip_spsrSvc (fm : Form) (s : State) :
    (skip fm s).spsrSvc = s.spsrSvc := by
  simp [skip]

@[simp] theorem skip_spsrAbt (fm : Form) (s : State) :
    (skip fm s).spsrAbt = s.spsrAbt := by
  simp [skip]

@[simp] theorem skip_spsrUnd (fm : Form) (s : State) :
    (skip fm s).spsrUnd = s.spsrUnd := by
  simp [skip]

@[simp] theorem skip_ac (fm : Form) (s : State) :
    (skip fm s).ac = s.ac := by
  simp [skip]

@[simp] theorem skip_mem (fm : Form) (s : State) :
    (skip fm s).mem = s.mem := by
  simp [skip]

@[simp] theorem skip_stepNo (fm : Form) (s : State) :
    (skip fm s).stepNo = s.stepNo := by
  simp [skip]

@[simp] theorem skip_draws (fm : Form) (s : State) :
    (skip fm s).draws = s.draws := by
  simp [skip]

@[simp] theorem skip_pc (fm : Form) (s : State) :
    (skip fm s).pc = s.pc + fm.size := by
  simp [skip]

@[simp] theorem skip_cpsr (fm : Form) (s : State) :
    (skip fm s).cpsr = { s.cpsr with it := if fm.enc.isThumb then itAdvance s.cpsr.it else s.cpsr.it } := by
  simp [skip]

/-! ### `finish` -/

@[simp] theorem finish_cfg (fm : Form) (s : State) :
    (finish fm s).cfg = s.cfg := by
  unfold finish; split <;> simp

@[simp] theorem finish_regs (fm : Form) (s : State) :
    (finish fm s).regs = s.regs := by
  unfold finish; split <;> simp

@[simp] theorem finish_spsrFiq (fm : Form) (s : State) :
    (finish fm s).spsrFiq = s.spsrFiq := by
  unfold finish; split <;> simp

@[simp] theorem finish_spsrIrq (fm : Form) (s : State) :
    (finish fm s).spsrIrq = s.spsrIrq := by
  unfold finish; split <;> simp

@[simp] theorem finish_spsrSvc (fm : Form) (s : State) :
    (finish fm s).spsrSvc = s.spsrSvc := by
  unfold finish; split <;> simp

@[simp] theorem finish_spsrAbt (fm : Form) (s : State) :
    (finish fm s).spsrAbt = s.spsrAbt := by
  unfold finish; split <;> simp

@[simp] theorem finish_spsrUnd (fm : Form) (s : State) :
    (finish fm s).spsrUnd = s.spsrUnd := by
  unfold finish; split <;> simp

@[simp] theorem finish_ac (fm : Form) (s : State) :
    (finish fm s).ac = s.ac := by
  unfold finish; split <;> simp

@[simp] theorem finish_mem (fm : Form) (s : State) :
    (finish fm s).mem = s.mem := by
  unfold finish; split <;> simp

@[simp] theorem finish_stepNo (fm : Form) (s : State) :
    (finish fm s).stepNo = s.stepNo := by
  unfold finish; split <;> simp

@[simp] theorem finish_draws (fm : Form) (s : State) :
    (finish fm s).draws = s.draws := by
  unfold finish; split <;> simp

/-! ### `takeException` -/

@[simp] theorem takeException_cfg (e : Exc) (s : State) :
    (takeException e s).cfg = s.cfg := by
  simp [takeException]

@[simp] theorem takeException_ac (e : Exc) (s : State) :
    (takeException e s).ac = s.ac := by
  simp [takeException]

@[simp] theorem takeException_mem (e : Exc) (s : State) :
    (takeException e s).mem = s.mem := by
  simp [takeException]

@[simp] theorem takeException_stepNo (e : Exc) (s : State) :
    (takeException e s).stepNo = s.stepNo := by
  simp [takeException]

@[simp] theorem takeException_draws (e : Exc) (s : State) :
    (takeException e s).draws = s.draws := by
  simp [takeException]

@[simp] theorem takeException_pc (e : Exc) (s : State) :
    (takeException e s).pc = s.cfg.vectorBase + e.vector := by
  rfl

@[simp] theorem takeException_cpsr (e : Exc) (s : State) :
    (takeException e s).cpsr = s.cpsr.onEntry s.cfg e := by
  simp [takeException]

/-! ### `Cpsr.setNZ` -/

@[simp] theorem Cpsr.setNZ_n (p : Cpsr) (r : Word) :
    (p.setNZ r).n = r.msb := rfl

@[simp] theorem Cpsr.setNZ_z (p : Cpsr) (r : Word) :
    (p.setNZ r).z = (r == 0#32) := rfl

@[simp] theorem Cpsr.setNZ_c (p : Cpsr) (r : Word) :
    (p.setNZ r).c = p.c := rfl

@[simp] theorem Cpsr.setNZ_v (p : Cpsr) (r : Word) :
    (p.setNZ r).v = p.v := rfl

@[simp] theorem Cpsr.setNZ_q (p : Cpsr) (r : Word) :
    (p.setNZ r).q = p.q := rfl

@[simp] theorem Cpsr.setNZ_it (p : Cpsr) (r : Word) :
    (p.setNZ r).it = p.it := rfl

@[simp] theorem Cpsr.setNZ_j (p : Cpsr) (r : Word) :
    (p.setNZ r).j = p.j := rfl

@[simp] theorem Cpsr.setNZ_ge (p : Cpsr) (r : Word) :
    (p.setNZ r).ge = p.ge := rfl

@[simp] theorem Cpsr.setNZ_e (p : Cpsr) (r : Word) :
    (p.setNZ r).e = p.e := rfl

@[simp] theorem Cpsr.setNZ_a (p : Cpsr) (r : Word) :
    (p.setNZ r).a = p.a := rfl

@[simp] theorem Cpsr.setNZ_i (p : Cpsr) (r : Word) :
    (p.setNZ r).i = p.i := rfl

@[simp] theorem Cpsr.setNZ_f (p : Cpsr) (r : Word) :
    (p.setNZ r).f = p.f := rfl

@[simp] theorem Cpsr.setNZ_t (p : Cpsr) (r : Word) :
    (p.setNZ r).t = p.t := rfl

@[simp] theorem Cpsr.setNZ_mode (p : Cpsr) (r : Word) :
    (p.setNZ r).mode = p.mode := rfl

/-! ### `Cpsr.setNZC` -/

@[simp] theorem Cpsr.setNZC_n (p : Cpsr) (r : Word) (c : Bool) :
    (p.setNZC r c).n = r.msb := rfl

@[simp] theorem Cpsr.setNZC_z (p : Cpsr) (r : Word) (c : Bool) :
    (p.setNZC r c).z = (r == 0#32) := rfl

@[simp] theorem Cpsr.setNZC_c (p : Cpsr) (r : Word) (c : Bool) :
    (p.setNZC r c).c = c := rfl

@[simp] theorem Cpsr.setNZC_v (p : Cpsr) (r : Word) (c : Bool) :
    (p.setNZC r c).v = p.v := rfl

@[simp] theorem Cpsr.setNZC_q (p : Cpsr) (r : Word) (c : Bool) :
    (p.setNZC r c).q = p.q := rfl

@[simp] theorem Cpsr.setNZC_it (p : Cpsr) (r : Word) (c : Bool) :
    (p.setNZC r c).it = p.it := rfl

@[simp] theorem Cpsr.setNZC_j (p : Cpsr) (r : Word) (c : Bool) :
    (p.setNZC r c).j = p.j := rfl

@[simp] theorem Cpsr.setNZC_ge (p : Cpsr) (r : Word) (c : Bool) :
    (p.setNZC r c).ge = p.ge := rfl

@[simp] theorem Cpsr.setNZC_e (p : Cpsr) (r : Word) (c : Bool) :
    (p.setNZC r c).e = p.e := rfl

@[simp] theorem Cpsr.setNZC_a (p : Cpsr) (r : Word) (c : Bool) :
    (p.setNZC r c).a = p.a := rfl

@[simp] theorem Cpsr.setNZC_i (p : Cpsr) (r : Word) (c : Bool) :
    (p.setNZC r c).i = p.i := rfl

@[simp] theorem Cpsr.setNZC_f (p : Cpsr) (r : Word) (c : Bool) :
    (p.setNZC r c).f = p.f := rfl

@[simp] theorem Cpsr.setNZC_t (p : Cpsr) (r : Word) (c : Bool) :
    (p.setNZC r c).t = p.t := rfl

@[simp] theorem Cpsr.setNZC_mode (p : Cpsr) (r : Word) (c : Bool) :
    (p.setNZC r c).mode = p.mode := rfl

/-! ### `Cpsr.setNZCV` -/

@[simp] theorem Cpsr.setNZCV_n (p : Cpsr) (r : Word) (c v : Bool) :
    (p.setNZCV r c v).n = r.msb := rfl

@[simp] theorem Cpsr.setNZCV_z (p : Cpsr) (r : Word) (c v : Bool) :
    (p.setNZCV r c v).z = (r == 0#32) := rfl

@[simp] theorem Cpsr.setNZCV_c (p : Cpsr) (r : Word) (c v : Bool) :
    (p.setNZCV r c v).c = c := rfl

@[simp] theorem Cpsr.setNZCV_v (p : Cpsr) (r : Word) (c v : Bool) :
    (p.setNZCV r c v).v = v := rfl

@[simp] theorem Cpsr.setNZCV_q (p : Cpsr) (r : Word) (c v : Bool) :
    (p.setNZCV r c v).q = p.q := rfl

@[simp] theorem Cpsr.setNZCV_it (p : Cpsr) (r : Word) (c v : Bool) :
    (p.setNZCV r c v).it = p.it := rfl

@[simp] theorem Cpsr.setNZCV_j (p : Cpsr) (r : Word) (c v : Bool) :
    (p.setNZCV r c v).j = p.j := rfl

@[simp] theorem Cpsr.setNZCV_ge (p : Cpsr) (r : Word) (c v : Bool) :
    (p.setNZCV r c v).ge = p.ge := rfl

@[simp] theorem Cpsr.setNZCV_e (p : Cpsr) (r : Word) (c v : Bool) :
    (p.setNZCV r c v).e = p.e := rfl

@[simp] theorem Cpsr.setNZCV_a (p : Cpsr) (r : Word) (c v : Bool) :
    (p.setNZCV r c v).a = p.a := rfl

@[simp] theorem Cpsr.setNZCV_i (p : Cpsr) (r : Word) (c v : Bool) :
    (p.setNZCV r c v).i = p.i := rfl

@[simp] theorem Cpsr.setNZCV_f (p : Cpsr) (r : Word) (c v : Bool) :
    (p.setNZCV r c v).f = p.f := rfl

@[simp] theorem Cpsr.setNZCV_t (p : Cpsr) (r : Word) (c v : Bool) :
    (p.setNZCV r c v).t = p.t := rfl

@[simp] theorem Cpsr.setNZCV_mode (p : Cpsr) (r : Word) (c v : Bool) :
    (p.setNZCV r c v).mode = p.mode := rfl

/-! ### `Cpsr.stickQ` -/

@[simp] theorem Cpsr.stickQ_n (p : Cpsr) (b : Bool) :
    (p.stickQ b).n = p.n := rfl

@[simp] theorem Cpsr.stickQ_z (p : Cpsr) (b : Bool) :
    (p.stickQ b).z = p.z := rfl

@[simp] theorem Cpsr.stickQ_c (p : Cpsr) (b : Bool) :
    (p.stickQ b).c = p.c := rfl

@[simp] theorem Cpsr.stickQ_v (p : Cpsr) (b : Bool) :
    (p.stickQ b).v = p.v := rfl

@[simp] theorem Cpsr.stickQ_q (p : Cpsr) (b : Bool) :
    (p.stickQ b).q = (p.q || b) := rfl

@[simp] theorem Cpsr.stickQ_it (p : Cpsr) (b : Bool) :
    (p.stickQ b).it = p.it := rfl

@[simp] theorem Cpsr.stickQ_j (p : Cpsr) (b : Bool) :
    (p.stickQ b).j = p.j := rfl

@[simp] theorem Cpsr.stickQ_ge (p : Cpsr) (b : Bool) :
    (p.stickQ b).ge = p.ge := rfl

@[simp] theorem Cpsr.stickQ_e (p : Cpsr) (b : Bool) :
    (p.stickQ b).e = p.e := rfl

@[simp] theorem Cpsr.stickQ_a (p : Cpsr) (b : Bool) :
    (p.stickQ b).a = p.a := rfl

@[simp] theorem Cpsr.stickQ_i (p : Cpsr) (b : Bool) :
    (p.stickQ b).i = p.i := rfl

@[simp] theorem Cpsr.stickQ_f (p : Cpsr) (b : Bool) :
    (p.stickQ b).f = p.f := rfl

@[simp] theorem Cpsr.stickQ_t (p : Cpsr) (b : Bool) :
    (p.stickQ b).t = p.t := rfl

@[simp] theorem Cpsr.stickQ_mode (p : Cpsr) (b : Bool) :
    (p.stickQ b).mode = p.mode := rfl

end Sys2Proof.Machine
end

