-- ==== Sys2Proof/Laws/Memory.lean ====
section
/-! SUPPORT. Laws of memory: a byte written is read back, others stay, and every operation keeps the canonical
form (log 9). -/

namespace Sys2Proof.Machine

open Sys2Proof

/-! ### Reading and writing one byte -/

/-- Below the first address of a canonical memory nothing is listed. -/
theorem Memory.get_below (m : List Host.Cell) (lo a : Nat) (h : Memory.wfFrom lo m = true) (ha : a < lo) :
    Memory.get m a = blank := by
  induction m generalizing lo with
  | nil => rfl
  | cons x m ih =>
    obtain ⟨y, b⟩ := x
    simp only [Memory.wfFrom, Bool.and_eq_true, decide_eq_true_eq] at h
    simp only [Memory.get]
    rw [if_neg (by omega)]
    exact ih (y + 1) h.2 (by omega)

/-- A canonical memory stays one when its lower bound is lowered. -/
theorem Memory.wfFrom_mono (m : List Host.Cell) (lo lo' : Nat) (h : Memory.wfFrom lo m = true) (hl : lo' ≤ lo) :
    Memory.wfFrom lo' m = true := by
  cases m with
  | nil => rfl
  | cons x m =>
    obtain ⟨y, b⟩ := x
    simp only [Memory.wfFrom, Bool.and_eq_true, decide_eq_true_eq] at h ⊢
    exact ⟨⟨⟨by omega, h.1.1.2⟩, h.1.2⟩, h.2⟩

/-- Another byte than the one written is as before, in any memory. -/
theorem Memory.get_put_ne (m : List Host.Cell) (a c : Nat) (b : Byte) (h : c ≠ a) :
    Memory.get (Memory.put m a b) c = Memory.get m c := by
  induction m with
  | nil =>
    simp only [Memory.put]
    split <;> simp [Memory.get, h]
  | cons x m ih =>
    obtain ⟨y, d⟩ := x
    simp only [Memory.put]
    split
    · split <;> simp [Memory.get, h]
    · split
      · subst_vars
        split <;> simp [Memory.get, h]
      · simp [Memory.get, ih]

/-- The byte written is read back, in a canonical memory. -/
theorem Memory.get_put_same (m : List Host.Cell) (lo a : Nat) (b : Byte) (h : Memory.wfFrom lo m = true) :
    Memory.get (Memory.put m a b) a = b := by
  induction m generalizing lo with
  | nil =>
    simp only [Memory.put]
    split <;> simp_all [Memory.get]
  | cons x m ih =>
    obtain ⟨y, d⟩ := x
    simp only [Memory.wfFrom, Bool.and_eq_true, decide_eq_true_eq] at h
    simp only [Memory.put]
    split
    · rename_i hlt
      split
      · simp only [Memory.get]
        rw [if_neg (by omega), Memory.get_below m (y + 1) a h.2 (by omega)]
        simp_all
      · simp [Memory.get]
    · split
      · subst_vars
        split
        · rw [Memory.get_below m (y + 1) y h.2 (by omega)]
          simp_all
        · simp [Memory.get]
      · rename_i hne
        simp only [Memory.get, if_neg hne]
        exact ih (y + 1) h.2

/-- Writing a byte keeps the canonical form, above any bound that is not above the address. -/
theorem Memory.put_wfFrom (m : List Host.Cell) (lo a : Nat) (b : Byte) (h : Memory.wfFrom lo m = true) (hl : lo ≤ a)
    (ha : a < 4294967296) : Memory.wfFrom lo (Memory.put m a b) = true := by
  induction m generalizing lo with
  | nil =>
    simp only [Memory.put]
    split <;> simp_all [Memory.wfFrom]
  | cons x m ih =>
    obtain ⟨y, d⟩ := x
    have h' := h
    simp only [Memory.wfFrom, Bool.and_eq_true, decide_eq_true_eq] at h'
    simp only [Memory.put]
    split
    · split
      · exact h
      · rename_i hlt hb
        simp only [Memory.wfFrom, Bool.and_eq_true, decide_eq_true_eq, bne_iff_ne, ne_eq]
        exact ⟨⟨⟨hl, ha⟩, hb⟩, ⟨⟨by omega, h'.1.1.2⟩, by simpa using h'.1.2⟩, h'.2⟩
    · split
      · subst_vars
        split
        · exact Memory.wfFrom_mono m _ _ h'.2 (by omega)
        · rename_i hb
          simp only [Memory.wfFrom, Bool.and_eq_true, decide_eq_true_eq, bne_iff_ne, ne_eq]
          exact ⟨⟨⟨hl, ha⟩, hb⟩, h'.2⟩
      · simp only [Memory.wfFrom, Bool.and_eq_true, decide_eq_true_eq]
        exact ⟨h'.1, ih (y + 1) h'.2 (by omega)⟩

/-- Writing a byte keeps the canonical form. -/
theorem Memory.put_wf (m : List Host.Cell) (a : Word) (b : Byte) (h : Memory.wf m = true) :
    Memory.wf (Memory.put m a.toNat b) = true :=
  Memory.put_wfFrom m 0 a.toNat b h (Nat.zero_le _) a.isLt

/-- Writing several bytes keeps the canonical form. -/
theorem Memory.putAll_wf (m : List Host.Cell) (l : List (Word × Byte)) (h : Memory.wf m = true) :
    Memory.wf (Memory.putAll m l) = true := by
  induction l generalizing m with
  | nil => exact h
  | cons x l ih => exact ih _ (Memory.put_wf m x.1 x.2 h)

/-- A byte that none of the writes names is as before, in any memory. -/
theorem Memory.get_putAll_ne (m : List Host.Cell) (l : List (Word × Byte)) (a : Word) (h : ∀ x ∈ l, x.1 ≠ a) :
    Memory.get (Memory.putAll m l) a.toNat = Memory.get m a.toNat := by
  induction l generalizing m with
  | nil => rfl
  | cons x l ih =>
    simp only [List.mem_cons, forall_eq_or_imp] at h
    simp only [Memory.putAll]
    rw [ih _ h.2, Memory.get_put_ne]
    intro e
    exact h.1 (BitVec.eq_of_toNat_eq e.symm)

/-- The last write to an address is what it reads as, in a canonical memory. -/
theorem Memory.get_putAll (m : List Host.Cell) (l : List (Word × Byte)) (a : Word) (h : Memory.wf m = true) :
    Memory.get (Memory.putAll m l) a.toNat =
      match l.reverse.find? (fun x => x.1 == a) with
      | some x => x.2
      | none => Memory.get m a.toNat := by
  induction l generalizing m with
  | nil => rfl
  | cons x l ih =>
    simp only [Memory.putAll, List.reverse_cons, List.find?_append]
    rw [ih _ (Memory.put_wf m x.1 x.2 h)]
    cases hf : l.reverse.find? (fun x => x.1 == a) with
    | some y => simp
    | none =>
      by_cases hx : x.1 = a
      · subst hx
        simp [Memory.get_put_same m 0 _ _ h]
      · have hn : a.toNat ≠ x.1.toNat := fun e => hx (BitVec.eq_of_toNat_eq e.symm)
        simp [hx, Memory.get_put_ne _ _ _ _ hn]

/-! ### Stores -/

/-- A store keeps the canonical form. -/
theorem State.storeValue_wf (s : State) (a : Word) (w : Width) (v : Word) (h : Memory.wf s.mem = true) :
    Memory.wf (s.storeValue a w v).mem = true :=
  Memory.putAll_wf s.mem _ h

/-- The addresses a store writes are the bytes of its access. -/
theorem storeBytes_fst (big : Bool) (a : Word) (w : Width) (v : Word) :
    (storeBytes big a w v).map Prod.fst = touched a w := by
  cases w <;> cases big <;> rfl

/-- A byte outside the access is as before, in any memory. -/
theorem State.storeValue_byteAt_ne (s : State) (a b : Word) (w : Width) (v : Word) (h : b ∉ touched a w) :
    (s.storeValue a w v).byteAt b = s.byteAt b := by
  apply Memory.get_putAll_ne
  intro x hx e
  apply h
  rw [← storeBytes_fst s.bigEndian a w v, ← e]
  exact List.mem_map_of_mem hx

/-- What is stored does not depend on the value's byte order seen from another register or flag. -/
@[simp] theorem State.storeValue_bigEndian (s : State) (a : Word) (w : Width) (v : Word) :
    (s.storeValue a w v).bigEndian = s.bigEndian := rfl

/-- `MemWrite` either stores, or stops (R82, R94): everything it can do when it answers. -/
theorem memWrite_ok (s t : State) (priv : Bool) (a : Word) (w : Width) (v : Word)
    (h : memWrite s priv a w v = .ok t) :
    t = s.storeValue a w v ∧ accessAbort s priv true a w = none ∧ (touched a w).any (executable s.cfg) = false := by
  unfold memWrite at h
  split at h
  · cases h
  · rename_i hn
    split at h
    · cases h
    · rename_i hx
      cases h
      exact ⟨rfl, hn, by simpa using hx⟩

/-- `MemRead` answers the value of the bytes (R81). -/
theorem memRead_ok (s : State) (priv : Bool) (a : Word) (w : Width) (v : Word) (h : memRead s priv a w = .ok v) :
    v = s.loadValue a w ∧ accessAbort s priv false a w = none := by
  unfold memRead at h
  split at h
  · cases h
  · rename_i hn
    cases h
    exact ⟨rfl, hn⟩

/-- `lowest` is one of the addresses, and none of them lies below it. -/
theorem lowest_spec (a : Word) (l : List Word) :
    lowest a l ∈ a :: l ∧ ∀ x ∈ a :: l, (lowest a l).toNat ≤ x.toNat := by
  induction l generalizing a with
  | nil => simp [lowest]
  | cons b l ih =>
    have e : lowest a (b :: l) = lowest (if b.toNat < a.toNat then b else a) l := rfl
    rw [e]
    obtain ⟨hm, hl⟩ := ih (if b.toNat < a.toNat then b else a)
    have h0 := hl _ List.mem_cons_self
    have hmin : (if b.toNat < a.toNat then b else a).toNat ≤ a.toNat ∧
        (if b.toNat < a.toNat then b else a).toNat ≤ b.toNat := by split <;> omega
    refine ⟨?_, fun x hx => ?_⟩
    · rcases List.mem_cons.1 hm with h | h
      · rw [h]
        split <;> simp
      · exact List.mem_cons_of_mem _ (List.mem_cons_of_mem _ h)
    · rcases List.mem_cons.1 hx with h | hx
      · exact h ▸ h0.trans hmin.1
      · rcases List.mem_cons.1 hx with h | h
        · exact h ▸ h0.trans hmin.2
        · exact hl x (List.mem_cons_of_mem _ h)

/-- What a data abort of an access says (R522): kind alignment with the address of the access, or the lowest byte that
faults, with kind translation just when some byte is not mapped. -/
theorem accessAbort_some (s : State) (priv wr : Bool) (a : Word) (w : Width) (e : Exc)
    (h : accessAbort s priv wr a w = some e) :
    ∃ k, ∃ b ∈ touched a w, e = .dataAbort k b wr ∧
      ((k = .alignment ∧ b = a) ∨
        ((byteAbort s.cfg priv wr b).isSome = true ∧
          (∀ x ∈ touched a w, (byteAbort s.cfg priv wr x).isSome = true → b.toNat ≤ x.toNat) ∧
          k = if ∃ x ∈ touched a w, byteAbort s.cfg priv wr x = some .translation then .translation
            else .permission)) := by
  unfold accessAbort at h
  split at h
  · cases h
    exact ⟨_, a, by cases w <;> simp [touched], rfl, .inl ⟨rfl, rfl⟩⟩
  · split at h
    · cases h
    · rename_i x rest hf
      cases h
      obtain ⟨hm, hl⟩ := lowest_spec x rest
      rw [← hf] at hm hl ⊢
      obtain ⟨hm, hb⟩ := List.mem_filter.1 hm
      refine ⟨_, _, hm, rfl, .inr ⟨hb, fun y hy hs => hl y (List.mem_filter.2 ⟨hy, hs⟩), if_congr ?_ rfl rfl⟩⟩
      simp only [List.any_eq_true, List.mem_filter, beq_iff_eq]
      exact ⟨fun ⟨y, ⟨hy, _⟩, ht⟩ => ⟨y, hy, ht⟩, fun ⟨y, hy, ht⟩ => ⟨y, ⟨hy, by rw [ht]; rfl⟩, ht⟩⟩

/-- An access does not abort just when it is aligned or need not be and no byte of it faults (R81, R85). -/
theorem accessAbort_none (s : State) (priv wr : Bool) (a : Word) (w : Width) :
    accessAbort s priv wr a w = none ↔
      (a.toNat % w.bytes = 0 ∨ s.cfg.unalignedPolicy ≠ .fault) ∧
        ∀ b ∈ touched a w, byteAbort s.cfg priv wr b = none := by
  unfold accessAbort
  split
  · rename_i h
    simp [h.1, h.2]
  · rename_i h
    split
    · rename_i hf
      rw [List.filter_eq_nil_iff] at hf
      simp only [Option.not_isSome_iff_eq_none] at hf
      exact ⟨fun _ => ⟨by tauto, hf⟩, fun _ => rfl⟩
    · rename_i x rest hf
      have hx : x ∈ (touched a w).filter (fun b => (byteAbort s.cfg priv wr b).isSome) := by simp [hf]
      obtain ⟨hm, hs⟩ := List.mem_filter.1 hx
      refine ⟨fun h => by simp at h, fun h => ?_⟩
      rw [h.2 x hm] at hs
      cases hs

/-- Memory after reset is canonical. -/
theorem State.resetFor_mem_wf (c : Config) : Memory.wf (State.resetFor c).mem = true := rfl

end Sys2Proof.Machine
end

