-- ==== Sys2Proof/Laws/Ops.lean ====
section
/-! SUPPORT. One lemma for each shared operation that says what it can do: registers, checks, writing the PC, taking
an exception and returning from one, and the frame of an instruction. -/

namespace Sys2Proof.Machine

open Sys2Proof

/-! ### Registers -/

@[simp] theorem RegFile.get_set_same (f : RegFile) (p : PReg) (v : Word) : (f.set p v).get p = v := by
  cases p <;> rfl

theorem RegFile.get_set_ne (f : RegFile) (p q : PReg) (v : Word) (h : q ≠ p) : (f.set p v).get q = f.get q := by
  cases p <;> cases q <;> first | rfl | exact absurd rfl h

/-- R15 alone has no physical register behind it. -/
theorem physReg_eq_none (m : Mode) (i : Reg) : physReg m i = none ↔ i = 15#4 := by
  cases m <;> revert i <;> decide

/-- In one mode, two numbers name one physical register only if they are equal. -/
theorem physReg_inj (m : Mode) (i j : Reg) (h : physReg m i = physReg m j) : i = j := by
  cases m <;> revert i j <;> decide

/-- `setReg` replaces the register its number names in the current mode, and no other. -/
theorem State.setReg_regs_get (s : State) (i : Reg) (v : Word) (q : PReg) :
    (s.setReg i v).regs.get q = if physReg s.cpsr.mode i = some q then v else s.regs.get q := by
  unfold State.setReg
  cases h : physReg s.cpsr.mode i with
  | none => simp
  | some p =>
    by_cases hq : p = q
    · subst hq
      simp
    · simp only [Option.some.injEq, if_neg hq]
      exact RegFile.get_set_ne _ _ _ _ (Ne.symm hq)

/-- A register written is read back. -/
theorem State.setReg_reg_same (s : State) (i : Reg) (v : Word) (h : i ≠ 15#4) : (s.setReg i v).reg i = v := by
  unfold State.reg State.setReg
  cases hp : physReg s.cpsr.mode i with
  | none => exact absurd ((physReg_eq_none _ _).1 hp) h
  | some p => simp [hp]

/-- Another register than the one written is as before. -/
theorem State.setReg_reg_ne (s : State) (i j : Reg) (v : Word) (h : j ≠ i) : (s.setReg i v).reg j = s.reg j := by
  unfold State.reg
  simp only [State.setReg_cpsr, State.pcRead, State.setReg_pc]
  cases hj : physReg s.cpsr.mode j with
  | none => rfl
  | some q =>
    simp only [State.setReg_regs_get]
    rw [if_neg]
    intro he
    exact h (physReg_inj s.cpsr.mode j i (hj.trans he.symm))

@[simp] theorem State.withFlags_regs_get (s : State) (sf : Bool) (p : Cpsr) (q : PReg) :
    (s.withFlags sf p).regs.get q = s.regs.get q := by simp

/-- A list of writes with none in it changes nothing. -/
@[simp] theorem written_nil (m : Mode) (f : RegFile) (q : PReg) : written m f [] q = f.get q := rfl

/-- A list of writes, from its first on. -/
theorem written_cons (m : Mode) (f : RegFile) (i : Reg) (v : Word) (w : List (Reg × Word)) (q : PReg) :
    written m f ((i, v) :: w) q = if physReg m i = some q then v else written m f w q := by
  unfold written
  by_cases h : physReg m i = some q <;> simp [h]

/-! ### Operand checks -/

/-- No check fails: the effect follows. -/
theorem checked_ok (l : List (Bool × Refusal)) (k : Except Stop State) (h : ∀ x ∈ l, x.1 = false) :
    checked l k = k := by
  induction l with
  | nil => rfl
  | cons x l ih =>
    obtain ⟨b, r⟩ := x
    simp only [List.mem_cons, forall_eq_or_imp] at h
    simp [checked, h.1, ih h.2]

/-- Some check fails: one of the refusals listed. -/
theorem checked_bad (l : List (Bool × Refusal)) (k : Except Stop State) (h : ∃ x ∈ l, x.1 = true) :
    ∃ r, r ∈ l.map Prod.snd ∧ checked l k = .error (.refuse r) := by
  induction l with
  | nil => simp at h
  | cons x l ih =>
    obtain ⟨b, r⟩ := x
    by_cases hb : b = true
    · exact ⟨r, by simp, by simp [checked, hb]⟩
    · have h' : ∃ x ∈ l, x.1 = true := by
        obtain ⟨y, hy, hy'⟩ := h
        rcases List.mem_cons.1 hy with rfl | hm
        · exact absurd hy' hb
        · exact ⟨y, hm, hy'⟩
      obtain ⟨r', hr, he⟩ := ih h'
      refine ⟨r', by simp only [List.map_cons, List.mem_cons]; exact Or.inr hr, ?_⟩
      simp [checked, hb, he]

/-- Everything `checked` can do when it answers a state. -/
theorem checked_eq_ok (l : List (Bool × Refusal)) (k : Except Stop State) (t : State) (h : checked l k = .ok t) :
    k = .ok t ∧ ∀ x ∈ l, x.1 = false := by
  induction l with
  | nil => exact ⟨h, by simp⟩
  | cons x l ih =>
    obtain ⟨b, r⟩ := x
    simp only [checked] at h
    split at h
    · cases h
    · rename_i hb
      obtain ⟨h1, h2⟩ := ih h
      refine ⟨h1, ?_⟩
      simp only [List.mem_cons, forall_eq_or_imp]
      exact ⟨by simpa using hb, h2⟩

/-- Everything `checked` can do when it raises an exception. -/
theorem checked_eq_raise (l : List (Bool × Refusal)) (k : Except Stop State) (e : Exc)
    (h : checked l k = .error (.raise e)) : k = .error (.raise e) := by
  induction l with
  | nil => exact h
  | cons x l ih =>
    obtain ⟨b, r⟩ := x
    simp only [checked] at h
    split at h
    · cases h
    · exact ih h

/-! ### The frame of an instruction (R582) -/

/-- Everything an instruction can do when it answers a next state: its effect, an exception taken, or nothing but
moving on. -/
theorem perform_next (fm : Form) (s t : State) (k : Except Stop State) (h : perform fm s k = .next t) :
    available fm s = true ∧ misplaced fm s = none ∧ ∃ c, condition fm s = some c ∧
      ((condHolds c s.cpsr = true ∧ ((∃ s', k = .ok s' ∧ t = finish fm s') ∨
          ∃ e, k = .error (.raise e) ∧ s.cfg.trapModel = .classic ∧ t = takeException e s)) ∨
        (condHolds c s.cpsr = false ∧ t = skip fm s)) := by
  unfold perform at h
  split at h
  swap
  · cases h
  rename_i ha
  split at h
  · cases h
  rename_i hm
  split at h
  · cases h
  rename_i c hc
  refine ⟨ha, hm, c, hc, ?_⟩
  split at h
  · rename_i hh
    refine Or.inl ⟨hh, ?_⟩
    split at h
    · cases h
      exact Or.inl ⟨_, rfl, rfl⟩
    · rename_i e
      unfold raiseExc at h
      split at h
      · cases h
      · rename_i hk
        cases h
        exact Or.inr ⟨e, rfl, hk, rfl⟩
    · cases h
  · rename_i hh
    cases h
    exact Or.inr ⟨by simpa using hh, rfl⟩

/-- An instruction that is not available. -/
theorem perform_unavailable (fm : Form) (s : State) (k : Except Stop State) (h : available fm s = false) :
    perform fm s k = .refused .notAvailable := by
  simp [perform, h]

/-- An instruction that stands where it may not. -/
theorem perform_misplaced (fm : Form) (s : State) (k : Except Stop State) (r : Refusal) (h : available fm s = true)
    (hm : misplaced fm s = some r) : perform fm s k = .refused r := by
  simp [perform, h, hm]

/-- An instruction that executes: what its effect decides. -/
theorem perform_runs (fm : Form) (s : State) (k : Except Stop State) (c : Cond) (h : available fm s = true)
    (hm : misplaced fm s = none) (hc : condition fm s = some c) (hh : condHolds c s.cpsr = true) :
    perform fm s k = match k with
      | .ok s' => .next (finish fm s')
      | .error (.raise e) => raiseExc e s
      | .error (.refuse r) => .refused r := by
  rcases k with (e | r) | s' <;> simp [perform, h, hm, hc, hh]

/-- An instruction whose condition fails. -/
theorem perform_skips (fm : Form) (s : State) (k : Except Stop State) (c : Cond) (h : available fm s = true)
    (hm : misplaced fm s = none) (hc : condition fm s = some c) (hh : condHolds c s.cpsr = false) :
    perform fm s k = .next (skip fm s) := by
  simp [perform, h, hm, hc, hh]

/-- The condition of a Thumb instruction without one of its own, from the IT state. -/
theorem condition_of_itPasses (fm : Form) (s : State) (he : fm.enc = .thumb) (ho : fm.own = none)
    (h : itPasses s = true) : ∃ c, condition fm s = some c ∧ condHolds c s.cpsr = true := by
  unfold condition
  rw [he, ho]
  simp only [itPasses, Bool.or_eq_true, beq_iff_eq, Bool.and_eq_true, bne_iff_ne] at h
  by_cases hz : s.cpsr.it = 0#8
  · exact ⟨.al, by simp [hz], rfl⟩
  · rcases h with h | ⟨h1, h2⟩
    · exact absurd h hz
    · exact ⟨_, by simp [hz, condOfBits, h1], h2⟩

/-- Where an instruction without a condition of its own executes, `runs` gives what `perform_runs` asks. -/
theorem condition_of_runs (fm : Form) (wide : Bool) (s : State) (ho : fm.own = none) (h : runs fm.enc wide s = true) :
    ∃ c, condition fm s = some c ∧ condHolds c s.cpsr = true := by
  cases he : fm.enc with
  | a32 c =>
    rw [he] at h
    simp only [runs, Bool.and_eq_true] at h
    exact ⟨c, by simp [condition, he, ho], h.2⟩
  | thumb =>
    rw [he] at h
    simp only [runs, Bool.and_eq_true] at h
    exact condition_of_itPasses fm s he ho h.2

/-- The state agrees with the encoding where the instruction executes. -/
theorem isThumb_of_runs (e : Enc) (wide : Bool) (s : State) (h : runs e wide s = true) : e.isThumb = s.cpsr.t := by
  cases e <;> simp_all [runs, Enc.isThumb]

/-- A sequential instruction of four bytes that executes. -/
theorem perform_form4_runs (c : Config) (e : Enc) (f : Bool) (s : State) (k : Except Stop State) (hc : s.cfg = c)
    (hf : f = true) (h : runs e true s = true) :
    perform (form4 c e f) s k = match k with
      | .ok s' => .next (finish (form4 c e f) s')
      | .error (.raise x) => raiseExc x s
      | .error (.refuse r) => .refused r := by
  subst hc
  obtain ⟨k', h1, h2⟩ := condition_of_runs (form4 s.cfg e f) true s rfl h
  refine perform_runs _ _ _ k' ?_ ?_ h1 h2
  · have ht := isThumb_of_runs e true s h
    cases e <;> simp_all [available, form4, runs, Enc.isThumb]
  · simp [misplaced, form4]

/-- A sequential instruction of four bytes whose feature is absent. -/
theorem perform_form4_absent (c : Config) (e : Enc) (f : Bool) (s : State) (k : Except Stop State)
    (h : (f && (!e.isThumb || c.haveT2)) = false) : perform (form4 c e f) s k = .refused .notAvailable := by
  apply perform_unavailable
  simp only [available, form4, h, Bool.false_and]

/-- The end of a sequential instruction of four bytes. -/
theorem finish_form4 (c : Config) (e : Enc) (f : Bool) (s : State) :
    finish (form4 c e f) s =
      { s with pc := s.pc + 4#32, cpsr := { s.cpsr with it := if e.isThumb then itAdvance s.cpsr.it else s.cpsr.it } } := by
  cases e <;> rfl

/-- Advancing the IT state, bit by bit (R421). -/
theorem itAdvance_eq (it : BitVec 8) :
    itAdvance it = if it &&& 7#8 = 0#8 then 0#8 else (it &&& 0xE0#8) ||| ((it <<< 1) &&& 0x1F#8) := by
  revert it
  decide

/-- The IT state an instruction leaves, in the terms of the statements. -/
theorem itNext_eq (e : Enc) (s : State) :
    itNext e s = if e.isThumb then itAdvance s.cpsr.it else s.cpsr.it := by
  cases e <;> simp [itNext, Enc.isThumb, itAdvance_eq]

/-! ### Writing the PC (R420) -/

/-- Everything `BranchWritePC` can do when it answers. -/
theorem branchWritePc_ok (s t : State) (a : Word) (h : branchWritePc s a = .ok t) :
    (s.cpsr.t = true ∧ t = { s with pc := a &&& 0xFFFFFFFE#32 }) ∨
      (s.cpsr.t = false ∧ a.extractLsb' 0 2 = 0#2 ∧ t = { s with pc := a }) := by
  unfold branchWritePc at h
  split at h
  · rename_i ht
    cases h
    exact Or.inl ⟨ht, rfl⟩
  · rename_i ht
    split at h
    · rename_i ha
      cases h
      exact Or.inr ⟨by simpa using ht, ha, rfl⟩
    · cases h

/-- Everything `BXWritePC` can do when it answers. -/
theorem bxWritePc_ok (s t : State) (a : Word) (h : bxWritePc s a = .ok t) :
    (a.getLsbD 0 = true ∧ s.cfg.haveThumb = true ∧
        t = { s with cpsr := { s.cpsr with t := true }, pc := a &&& 0xFFFFFFFE#32 }) ∨
      (a.getLsbD 0 = true ∧ s.cfg.haveThumb = false ∧ a.getLsbD 1 = false ∧
        t = { s with pc := a &&& 0xFFFFFFFE#32 }) ∨
      (a.getLsbD 0 = false ∧ a.getLsbD 1 = false ∧ t = { s with cpsr := { s.cpsr with t := false }, pc := a }) := by
  unfold bxWritePc at h
  split at h
  · rename_i h0
    split at h
    · rename_i ht
      cases h
      exact Or.inl ⟨h0, ht, rfl⟩
    · rename_i ht
      split at h
      · cases h
      · rename_i h1
        cases h
        exact Or.inr (Or.inl ⟨h0, by simpa using ht, by simpa using h1, rfl⟩)
  · rename_i h0
    split at h
    · cases h
    · rename_i h1
      cases h
      exact Or.inr (Or.inr ⟨by simpa using h0, by simpa using h1, rfl⟩)

/-- Neither way of writing the PC raises an exception. -/
theorem branchWritePc_not_raise (s : State) (a : Word) (e : Exc) : branchWritePc s a ≠ .error (.raise e) := by
  unfold branchWritePc
  split <;> [skip; split] <;> simp

theorem bxWritePc_not_raise (s : State) (a : Word) (e : Exc) : bxWritePc s a ≠ .error (.raise e) := by
  unfold bxWritePc
  split
  · split
    · simp
    · split <;> simp
  · split <;> simp

/-! ### Modes and the SPSR -/

/-- The number of a mode names it. -/
@[simp] theorem Mode.ofBits_bits (m : Mode) : Mode.ofBits m.bits = some m := by
  cases m <;> rfl

/-- User and System mode alone have no SPSR. -/
theorem State.spsr_eq_none (s : State) : s.spsr = none ↔ s.cpsr.mode = .usr ∨ s.cpsr.mode = .sys := by
  unfold State.spsr
  cases s.cpsr.mode <;> simp

/-- The mode bits of the CPSR as a word. -/
theorem Cpsr.toWord_mode (p : Cpsr) : p.toWord.extractLsb' 0 5 = p.mode.bits := by
  obtain ⟨n, z, c, v, q, it, j, ge, e, a, i, f, t, mode⟩ := p
  ext k hk
  simp only [Cpsr.toWord, BitVec.getElem_extractLsb']
  rw [BitVec.getLsbD_append, if_pos (by omega)]
  simp [BitVec.getLsbD_eq_getElem hk]

/-- The flags, masks and state bits of the CPSR as a word (R50). -/
theorem Cpsr.toWord_bits (p : Cpsr) :
    p.toWord.getLsbD 31 = p.n ∧ p.toWord.getLsbD 30 = p.z ∧ p.toWord.getLsbD 29 = p.c ∧ p.toWord.getLsbD 28 = p.v ∧
      p.toWord.getLsbD 27 = p.q ∧ p.toWord.getLsbD 24 = p.j ∧ p.toWord.getLsbD 9 = p.e ∧ p.toWord.getLsbD 8 = p.a ∧
      p.toWord.getLsbD 7 = p.i ∧ p.toWord.getLsbD 6 = p.f ∧ p.toWord.getLsbD 5 = p.t := by
  simp only [Cpsr.toWord, BitVec.getLsbD_append, BitVec.getLsbD_ofBool]
  norm_num

/-- The GE flags and the two parts of the IT state in the CPSR as a word (R50). -/
theorem Cpsr.toWord_fields (p : Cpsr) :
    p.toWord.extractLsb' 16 4 = p.ge ∧ p.toWord.extractLsb' 10 6 ++ p.toWord.extractLsb' 25 2 = p.it := by
  constructor <;> apply BitVec.eq_of_getLsbD_eq <;> intro k hk <;> interval_cases k <;>
    simp only [Cpsr.toWord, BitVec.getLsbD_append, BitVec.getLsbD_ofBool, BitVec.getLsbD_extractLsb'] <;> norm_num

/-- Everything an exception return can do when it answers (R214). -/
theorem exceptionReturn_ok (s t : State) (imm : Word) (h : exceptionReturn s imm = .ok t) :
    ∃ w m, s.spsr = some w ∧ Mode.ofBits (w.extractLsb' 0 5) = some m ∧ w.getLsbD 24 = false ∧
      t.cpsr = Cpsr.restored s.cfg w m ∧
      t = { s with cpsr := t.cpsr, pc := t.pc } ∧
      ((t.cpsr.t = true ∧ t.pc = (s.reg 14#4 - imm) &&& 0xFFFFFFFE#32) ∨
        (t.cpsr.t = false ∧ (s.reg 14#4 - imm).extractLsb' 0 2 = 0#2 ∧ t.pc = s.reg 14#4 - imm)) := by
  unfold exceptionReturn at h
  split at h
  · cases h
  rename_i w hw
  split at h
  · cases h
  rename_i m hm
  split at h
  · cases h
  rename_i hj
  refine ⟨w, m, hw, hm, by simpa using hj, ?_⟩
  simp only at h
  split at h
  · rename_i ht
    cases h
    exact ⟨rfl, rfl, Or.inl ⟨ht, rfl⟩⟩
  · rename_i ht
    split at h
    · rename_i ha
      cases h
      exact ⟨rfl, rfl, Or.inr ⟨by simpa using ht, ha, rfl⟩⟩
    · cases h

/-! ### Taking an exception (R526) -/

/-- The registers after an exception entry: the link register of the mode entered, and no other. -/
theorem takeException_regs (e : Exc) (s : State) (q : PReg) :
    (takeException e s).regs.get q =
      if physReg e.mode 14#4 = some q then s.pc + e.lrOffset s.cpsr.t else s.regs.get q := by
  simp only [takeException, State.setReg_regs_get, State.setSpsr_cpsr, State.setSpsr_regs]
  rfl

/-- The SPSR of the mode entered holds the CPSR. -/
theorem takeException_spsr (e : Exc) (s : State) : (takeException e s).spsr = some s.cpsr.toWord := by
  cases e <;> rfl

end Sys2Proof.Machine
end

