-- ==== Sys2Proof/Laws/Results.lean ====
section
/-! SUPPORT. From the shape of a meaning to what it gives: the operand checks as conditions on the operands, and the
next state of the four-byte sequential instructions field by field. -/

namespace Sys2Proof.Machine

open Sys2Proof

/-! ### Operand checks as conditions -/

/-- The checks of `plainChecks` all pass exactly where the operands are allowed (R113). -/
theorem plainChecks_pass (e : Enc) (d r : List Reg) :
    (∀ x ∈ plainChecks e d r, x.1 = false) ↔ plainOk e (d ++ r) = true := by
  simp only [plainChecks, plainOk, List.mem_append, List.mem_map, List.all_eq_true, destPc, srcPc, noSp,
    Bool.and_eq_true, bne_iff_ne, Bool.not_eq_true']
  constructor
  · intro h a ha
    refine ⟨?_, h _ (Or.inr ⟨a, ha, rfl⟩)⟩
    rcases ha with ha | ha
    · simpa using h _ (Or.inl (Or.inl ⟨a, ha, rfl⟩))
    · simpa using h _ (Or.inl (Or.inr ⟨a, ha, rfl⟩))
  · rintro h x ((⟨a, ha, rfl⟩ | ⟨a, ha, rfl⟩) | ⟨a, ha, rfl⟩)
    · simpa using (h a (Or.inl ha)).1
    · simpa using (h a (Or.inr ha)).1
    · exact (h a ha).2

/-- Either all the checks of a list pass, or one fails. -/
theorem checks_fail (l : List (Bool × Refusal)) : (¬∀ x ∈ l, x.1 = false) ↔ ∃ x ∈ l, x.1 = true := by
  simp

/-- The refusals of `plainChecks` are those of R113. -/
theorem plainChecks_refusals (e : Enc) (d r : List Reg) :
    ∀ x ∈ (plainChecks e d r).map Prod.snd, x ∈ [Refusal.pcAsDestination, .pcOperand, .spOperand, .sameRegister] := by
  intro x hx
  obtain ⟨y, hy, rfl⟩ := List.mem_map.1 hx
  simp only [plainChecks, List.mem_append, List.mem_map] at hy
  rcases hy with (⟨a, -, rfl⟩ | ⟨a, -, rfl⟩) | ⟨a, -, rfl⟩ <;> simp [destPc, srcPc, noSp]

/-! ### Next states -/

/-- A register write, seen as `Becomes` sees it. -/
theorem becomes_setReg (s : State) (rd : Reg) (v : Word) (p : Cpsr) :
    Becomes s { s.setReg rd v with cpsr := p } [(rd, v)] p s.pc s.ac s.draws s.byteAt := by
  refine ⟨fun q => ?_, rfl, by simp, by simp, by simp, fun a => ?_, by simp, by simp, by simp, by simp, by simp,
    by simp, by simp⟩
  · simp only [State.setReg_regs_get, written_cons, written_nil]
  · simp [State.byteAt]

/-- Two register writes, the second of the list first. -/
theorem becomes_setReg_two (s : State) (i j : Reg) (v w : Word) (p : Cpsr) :
    Becomes s { (s.setReg j w).setReg i v with cpsr := p } [(i, v), (j, w)] p s.pc s.ac s.draws s.byteAt := by
  refine ⟨fun q => ?_, rfl, by simp, by simp, by simp, fun a => ?_, by simp, by simp, by simp, by simp, by simp,
    by simp, by simp⟩
  · simp only [State.setReg_regs_get, State.setReg_cpsr, written_cons, written_nil]
  · simp [State.byteAt]

/-- The end of a four-byte sequential instruction, added to what its effect gives. -/
theorem becomes_finish_form4 (s u : State) (c : Config) (e : Enc) (f : Bool) (w : List (Reg × Word)) (p : Cpsr)
    (ac : BitVec 40) (draws : Nat) (bytes : Word → Byte) (h : Becomes s u w p s.pc ac draws bytes)
    (hit : p.it = s.cpsr.it) :
    Becomes s (finish (form4 c e f) u) w { p with it := itNext e s } (s.pc + 4#32) ac draws bytes := by
  obtain ⟨h1, h2, h3, h4, h5, h6, h7⟩ := h
  refine ⟨?_, ?_, ?_, ?_, ?_, ?_, ?_⟩
  · simpa using h1
  · rw [finish_form4, itNext_eq]
    simp [h2, hit]
  · rw [finish_form4]
    simp [h3]
  · simpa using h4
  · simpa using h5
  · simpa [State.byteAt] using h6
  · simpa using h7

/-- A four-byte sequential instruction whose effect always answers the state `u`: what it gives. -/
theorem gives_of_form4 (i : Instr) (s u : State) (f0 feature allowed : Bool) (w : List (Reg × Word)) (p : Cpsr)
    (l : List (Bool × Refusal))
    (hx : exec i s = perform (form4 s.cfg (encodingOf i) f0) s (checked l (.ok u)))
    (hs : sizeOf2 i = 4#32) (hf : (f0 && (!(encodingOf i).isThumb || s.cfg.haveT2)) = feature)
    (hl : (∀ x ∈ l, x.1 = false) ↔ allowed = true)
    (hr : ∀ x ∈ l.map Prod.snd, x ∈ [Refusal.pcAsDestination, .pcOperand, .spOperand, .sameRegister])
    (hu : Becomes s u w p s.pc s.ac s.draws s.byteAt) (hit : p.it = s.cpsr.it) : Gives i s feature allowed w p := by
  refine ⟨fun h => ?_, fun h hr' ha => ?_, fun h hr' ha => ?_⟩
  · rw [hx]
    exact perform_form4_absent _ _ _ _ _ (hf.trans h)
  · have hf0 : f0 = true := by
      rw [h] at hf
      simp only [Bool.and_eq_true] at hf
      exact hf.1
    refine ⟨finish (form4 s.cfg (encodingOf i) f0) u, ?_, ?_⟩
    · rw [hx, perform_form4_runs _ _ _ _ _ rfl hf0 hr', checked_ok _ _ (hl.2 ha)]
    · rw [hs]
      exact becomes_finish_form4 _ _ _ _ _ _ _ _ _ _ hu hit
  · have hf0 : f0 = true := by
      rw [h] at hf
      simp only [Bool.and_eq_true] at hf
      exact hf.1
    have hb : ∃ x ∈ l, x.1 = true := by
      rw [← checks_fail, hl, ha]
      simp
    obtain ⟨r, hm, he⟩ := checked_bad l (.ok u) hb
    refine ⟨r, ?_, hr r hm⟩
    rw [hx, perform_form4_runs _ _ _ _ _ rfl hf0 hr', he]

/-- The shape of most instructions without `<Operand2>`: what `plainOp` gives. -/
theorem gives_plainOp (i : Instr) (s : State) (f0 feature allowed : Bool) (d r : List Reg) (f : State → State)
    (w : List (Reg × Word)) (p : Cpsr) (hx : exec i s = plainOp f0 (encodingOf i) d r s f)
    (hs : sizeOf2 i = 4#32) (hf : (f0 && (!(encodingOf i).isThumb || s.cfg.haveT2)) = feature)
    (ha : plainOk (encodingOf i) (d ++ r) = allowed)
    (hu : Becomes s (f s) w p s.pc s.ac s.draws s.byteAt) (hit : p.it = s.cpsr.it) : Gives i s feature allowed w p :=
  gives_of_form4 i s (f s) f0 feature allowed w p (plainChecks (encodingOf i) d r) hx hs hf
    (by rw [plainChecks_pass, ha]) (plainChecks_refusals _ _ _) hu hit

end Sys2Proof.Machine
end

