-- ==== Sys2Proof/Tests/Slice0.lean ====
section
/-! SUPPORT. Tests: terms that no row encodes, words written out from the opcode table, one step on small states with
the results that spec/95_test_vectors.md works out, and for every statement with hypotheses a state and operands that
meet them. -/

namespace Sys2Proof.Tests

open Sys2Proof Sys2Proof.Machine

-- One proof at a time: the evaluations below need much memory side by side.
set_option Elab.async false

/-! ### Helpers -/

/-- After reset, at 0x8000 in ARM state. -/
def arm : State := { State.reset with pc := 0x8000#32 }

/-- After reset, at 0x8000 in Thumb state. -/
def thumb : State := { arm with cpsr := { arm.cpsr with t := true } }

/-- An ARM encoding that is always executed. -/
def al : Enc := .a32 .al

/-- A state with another configuration. -/
def cfgd (s : State) (f : Config → Config) : State := { s with cfg := f s.cfg }

/-- A state in another mode. -/
def inMode (s : State) (m : Mode) : State := { s with cpsr := { s.cpsr with mode := m } }

/-- A state with other flags Z and C. -/
def flags (s : State) (z c : Bool) : State := { s with cpsr := { s.cpsr with z := z, c := c } }

/-- A state with an IT state. -/
def inIt (s : State) (it : BitVec 8) : State := { s with cpsr := { s.cpsr with it := it } }

/-- A state with registers written. -/
def regs (s : State) (w : List (Nat × Nat)) : State :=
  w.foldl (fun s x => s.setReg (BitVec.ofNat 4 x.1) (BitVec.ofNat 32 x.2)) s

/-- A state with a byte of memory written. -/
def byte (s : State) (a b : Nat) : State := { s with mem := Memory.put s.mem a (BitVec.ofNat 8 b) }

/-- The outcome is a next state that passes a check. -/
def nextIs (o : Host.Outcome State Fault Refusal) (p : State → Bool) : Bool :=
  match o with
  | .next t => p t
  | .fault _ => false
  | .refused _ => false

/-- The outcome is this fault. -/
def faultIs (o : Host.Outcome State Fault Refusal) (f : Fault) : Bool :=
  match o with
  | .next _ => false
  | .fault g => g == f
  | .refused _ => false

/-- The outcome is this refusal. -/
def refusedIs (o : Host.Outcome State Fault Refusal) (r : Refusal) : Bool :=
  match o with
  | .next _ => false
  | .fault _ => false
  | .refused q => q == r

/-- One step on the word `w` at 0x8000: the registers before, the registers after (those named before are otherwise
unchanged), then N, Z, C, V, Q after and GE before and after. C is set before, the other flags are clear. -/
structure Vec where
  word : Nat
  thumb : Bool
  before : List (Nat × Nat)
  after : List (Nat × Nat)
  nzcvq : List Bool
  geBefore : Nat
  geAfter : Nat

/-- The step gives the registers and flags of the vector, the next address and nothing else. -/
def Vec.holds (v : Vec) : Bool :=
  let s0 := regs (flags arm false true) v.before
  let s := { s0 with cpsr := { s0.cpsr with ge := BitVec.ofNat 4 v.geBefore } }.withFetchWord 32 v.word
  s.cpsr.t == v.thumb && nextIs (step s) fun t =>
    t.regs == (regs s v.after).regs && [t.cpsr.n, t.cpsr.z, t.cpsr.c, t.cpsr.v, t.cpsr.q] == v.nzcvq &&
      t.cpsr.ge.toNat == v.geAfter &&
      t.pc == 0x8004#32 && t.mem == s.mem && t.cpsr.mode == s.cpsr.mode

/-! ### Terms that no row encodes (R113, R114): each check of `wellFormed` refuses one -/

/-- ARM immediates are A32 only (R132). -/
theorem test_illFormed_operand2_arm_in_thumb : Instr.wellFormed (.and .thumb false 0#4 1#4 (.immA 0#4 1#8)) = false := by decide

/-- Thumb immediates are T32 only (R132). -/
theorem test_illFormed_operand2_thumb_in_arm : Instr.wellFormed (.adc al false 0#4 1#4 (.immT 1#12)) = false := by decide

/-- Register shifts are A32 only (R132). -/
theorem test_illFormed_register_shift_in_thumb : Instr.wellFormed (.bic .thumb false 0#4 1#4 (.regReg 2#4 .lsl 3#4)) = false := by decide

/-- Those words are TST (R118). -/
theorem test_illFormed_flag_setting_and_to_pc_in_thumb : Instr.wellFormed (.and .thumb true 15#4 1#4 (.immT 1#12)) = false := by decide

/-- Those words are MOV (R118). -/
theorem test_illFormed_orr_of_pc_in_thumb : Instr.wellFormed (.orr .thumb false 0#4 15#4 (.immT 1#12)) = false := by decide

/-- Those words are MVN (R118). -/
theorem test_illFormed_orn_of_pc : Instr.wellFormed (.orn false 0#4 15#4 (.immT 1#12)) = false := by decide

/-- RSC is A32 only (R211). -/
theorem test_illFormed_rsc_thumb_immediate : Instr.wellFormed (.rsc .al false 0#4 1#4 (.immT 1#12)) = false := by decide

/-- Those words are RRX (log 14). -/
theorem test_illFormed_mov_rrx : Instr.wellFormed (.mov al false 0#4 (.reg 1#4 .ror 0#5)) = false := by decide

/-- R132. -/
theorem test_illFormed_tst_thumb_immediate_in_arm : Instr.wellFormed (.tst al 0#4 (.immT 1#12)) = false := by decide

/-- Those words are ADR (R203, R206). -/
theorem test_illFormed_addw_of_pc : Instr.wellFormed (.addw 0#4 15#4 1#12) = false := by decide

/-- Those words are ADR (R206, R209). -/
theorem test_illFormed_subw_of_pc : Instr.wellFormed (.subw 0#4 15#4 1#12) = false := by decide

/-- T32 has no S here (R291). -/
theorem test_illFormed_muls_in_thumb : Instr.wellFormed (.mul .thumb true 0#4 1#4 2#4) = false := by decide

/-- R292. -/
theorem test_illFormed_mlas_in_thumb : Instr.wellFormed (.mla .thumb true 0#4 1#4 2#4 3#4) = false := by decide

/-- Those words are MUL (R292). -/
theorem test_illFormed_mla_of_pc_in_thumb : Instr.wellFormed (.mla .thumb false 0#4 1#4 2#4 15#4) = false := by decide

/-- R294. -/
theorem test_illFormed_umulls_in_thumb : Instr.wellFormed (.umull .thumb true 0#4 1#4 2#4 3#4) = false := by decide

/-- Those words are USAD8 (R268). -/
theorem test_illFormed_usada8_of_pc : Instr.wellFormed (.usada8 al 0#4 1#4 2#4 15#4) = false := by decide

/-- Those words are SMUAD (R305). -/
theorem test_illFormed_smlad_of_pc : Instr.wellFormed (.smlad al false 0#4 1#4 2#4 15#4) = false := by decide

/-- Those words are SMMUL (R311). -/
theorem test_illFormed_smmla_of_pc : Instr.wellFormed (.smmla .thumb false 0#4 1#4 2#4 15#4) = false := by decide

/-- Those words are SMULxy (R301). -/
theorem test_illFormed_smlaxy_of_pc_in_thumb : Instr.wellFormed (.smlaxy .thumb false false 0#4 1#4 2#4 15#4) = false := by decide

/-- Those words are SMULWy (R302). -/
theorem test_illFormed_smlawy_of_pc_in_thumb : Instr.wellFormed (.smlawy .thumb false 0#4 1#4 2#4 15#4) = false := by decide

/-- Those words are SSAT16 (R269). -/
theorem test_illFormed_ssat_asr_zero_in_thumb : Instr.wellFormed (.ssat .thumb 0#4 7#5 true 0#5 1#4) = false := by decide

/-- Those words are BFC (R382). -/
theorem test_illFormed_bfi_of_pc : Instr.wellFormed (.bfi al 0#4 15#4 0#5 7#5) = false := by decide

/-- Those words are SXTH (R393). -/
theorem test_illFormed_sxtah_of_pc : Instr.wellFormed (.sxtah al 0#4 15#4 1#4 0#2) = false := by decide

/-- R421. -/
theorem test_illFormed_it_without_mask : Instr.wellFormed (.it 0#4 0#4) = false := by decide

/-- R422. -/
theorem test_illFormed_b_t3_always : Instr.wellFormed (.b (.t3 .al false false false 0#6 0#11)) = false := by decide

/-- R452. -/
theorem test_illFormed_msr_without_fields : Instr.wellFormed (.msrReg al false 0#4 1#4) = false := by decide

/-- R453. -/
theorem test_illFormed_msr_immediate_without_fields : Instr.wellFormed (.msrImm .al false 0#4 0#4 0#8) = false := by decide

/-- R455. -/
theorem test_illFormed_cpsie_without_masks : Instr.wellFormed (.cpsie false false false false false 0#5) = false := by decide

/-- R454. -/
theorem test_illFormed_cpsid_mode_not_written : Instr.wellFormed (.cpsid false false true false false 19#5) = false := by decide

/-- R476. -/
theorem test_illFormed_ldr_halfword_form : Instr.wellFormed (.ldr al 0#4 (.aImm8 .offset true 1#4 4#8)) = false := by decide

/-- The literal form has its own row (R476). -/
theorem test_illFormed_ldr_thumb_base_pc : Instr.wellFormed (.ldr .thumb 0#4 (.tImm12 15#4 4#12)) = false := by decide

/-- Those words are LDRT (R476). -/
theorem test_illFormed_ldr_thumb_positive_offset : Instr.wellFormed (.ldr .thumb 0#4 (.tImm8 .offset true 1#4 4#8)) = false := by decide

/-- Not a row (R476). -/
theorem test_illFormed_ldrb_thumb_to_pc : Instr.wellFormed (.ldrb .thumb 15#4 (.tImm12 1#4 4#12)) = false := by decide

/-- R485. -/
theorem test_illFormed_str_literal : Instr.wellFormed (.str .thumb 0#4 (.tLit true 4#12)) = false := by decide

/-- R476. -/
theorem test_illFormed_ldrh_word_form : Instr.wellFormed (.ldrh al 0#4 (.aImm .offset true 1#4 4#12)) = false := by decide

/-- R476. -/
theorem test_illFormed_strh_arm_form_in_thumb : Instr.wellFormed (.strh .thumb 0#4 (.aReg0 .offset true 1#4 2#4)) = false := by decide

/-- R476. -/
theorem test_illFormed_ldrt_halfword_form : Instr.wellFormed (.ldrt al 0#4 (.aReg0 true 1#4 2#4)) = false := by decide

/-- R476. -/
theorem test_illFormed_strht_thumb_base_pc : Instr.wellFormed (.strht .thumb 0#4 (.tImm8 15#4 0#8)) = false := by decide

/-- What is ill-formed has no encoding. -/
theorem test_encode_refuses : encode (.it 0#4 0#4) = none := by decide

/-! ### Words written out from the rows of spec/opcode_table.json, for every constructor and instruction set -/

/-- spec/opcode_table.json, the pattern of each row with its fields filled in. -/
def words_move_shift_compare_logical_1 : List (Code × Instr) := [
  ((.a32 0xE21E65F3#32), .and (.a32 .al) true 6#4 14#4 (.immA 5#4 243#8)),
  ((.a32 0x500E9481#32), .and (.a32 .pl) false 9#4 14#4 (.reg 1#4 .lsl 9#5)),
  ((.a32 0xC0150211#32), .and (.a32 .gt) true 0#4 5#4 (.regReg 1#4 .lsl 2#4)),
  ((.a32 0x6220EAE1#32), .eor (.a32 .vs) false 14#4 0#4 (.immA 10#4 225#8)),
  ((.a32 0xB31104AE#32), .tst (.a32 .lt) 1#4 (.immA 4#4 174#8)),
  ((.a32 0x0332022E#32), .teq (.a32 .eq) 2#4 (.immA 2#4 46#8)),
  ((.a32 0x93520F0B#32), .cmp (.a32 .ls) 2#4 (.immA 15#4 11#8)),
  ((.a32 0x537A0EFF#32), .cmn (.a32 .pl) 10#4 (.immA 14#4 255#8)),
  ((.a32 0xA3844FB3#32), .orr (.a32 .ge) false 4#4 4#4 (.immA 15#4 179#8)),
  ((.a32 0xA3A01815#32), .mov (.a32 .ge) false 1#4 (.immA 8#4 21#8)),
  ((.a32 0x81B090AC#32), .mov (.a32 .hi) true 9#4 (.reg 12#4 .lsr 1#5)),
  ((.a32 0xE1A00834#32), .mov (.a32 .al) false 0#4 (.regReg 4#4 .lsr 8#4)),
  ((.a32 0x13CE3B27#32), .bic (.a32 .ne) false 3#4 14#4 (.immA 11#4 39#8)),
  ((.a32 0x73E0DC42#32), .mvn (.a32 .vc) false 13#4 (.immA 12#4 66#8)),
  ((.a32 0x81A0F06F#32), .rrx (.a32 .hi) false 15#4 15#4),
  ((.a32 0x430ADF3F#32), .movw (.a32 .mi) 13#4 44863#16),
  ((.a32 0xA3436D6C#32), .movt (.a32 .ge) 6#4 15724#16),
  ((.a32 0x9C42A000#32), .mar .ls 10#4 2#4),
  ((.a32 0x2C583000#32), .mra .cs 3#4 8#4),
  ((.a32 0xC16FBF1A#32), .clz (.a32 .gt) 11#4 10#4),
  ((.t32 0xF41131E5#32), .and .thumb true 1#4 1#4 (.immT 3045#12)),
  ((.t32 0xEA0A20FE#32), .and .thumb false 0#4 10#4 (.reg 14#4 .ror 11#5)),
  ((.t32 0xF4221579#32), .bic .thumb false 5#4 2#4 (.immT 2425#12)),
  ((.t32 0xF445687F#32), .orr .thumb false 8#4 5#4 (.immT 3711#12)),
  ((.t32 0xF4603D48#32), .orn false 13#4 0#4 (.immT 2888#12)),
  ((.t32 0xF09817D6#32), .eor .thumb true 7#4 8#4 (.immT 470#12)),
  ((.t32 0xF0142F10#32), .tst .thumb 4#4 (.immT 528#12)),
  ((.t32 0xF0985FE7#32), .teq .thumb 8#4 (.immT 1511#12)),
  ((.t32 0xF5146FB6#32), .cmn .thumb 4#4 (.immT 3766#12)),
  ((.t32 0xF1B40F0C#32), .cmp .thumb 4#4 (.immT 12#12)),
  ((.t32 0xF44F5784#32), .mov .thumb false 7#4 (.immT 3460#12)),
  ((.t32 0xEA4F63F1#32), .mov .thumb false 3#4 (.reg 1#4 .ror 27#5)),
  ((.t32 0xF47F59FE#32), .mvn .thumb true 9#4 (.immT 3582#12)),
  ((.t32 0xFA14FF08#32), .lsl true 15#4 4#4 8#4),
  ((.t32 0xFA2CF801#32), .lsr false 8#4 12#4 1#4),
  ((.t32 0xFA52F001#32), .asr true 0#4 2#4 1#4),
  ((.t32 0xFA6FFC0A#32), .ror false 12#4 15#4 10#4),
  ((.t32 0xEA5F0036#32), .rrx .thumb true 0#4 6#4),
  ((.t32 0xF2443874#32), .movw .thumb 8#4 17268#16),
  ((.t32 0xF6C730C9#32), .movt .thumb 0#4 31689#16)]

theorem test_decode_move_shift_compare_logical_1 : ∀ x ∈ words_move_shift_compare_logical_1, decodeCode x.1 = some x.2 := by decide +kernel

/-- spec/opcode_table.json, the pattern of each row with its fields filled in. -/
def words_move_shift_compare_logical_2 : List (Code × Instr) := [
  ((.t32 0xFAB1F181#32), .clz .thumb 1#4 1#4)]

theorem test_decode_move_shift_compare_logical_2 : ∀ x ∈ words_move_shift_compare_logical_2, decodeCode x.1 = some x.2 := by decide +kernel

/-- spec/opcode_table.json, the pattern of each row with its fields filled in. -/
def words_add_subtract : List (Code × Instr) := [
  ((.a32 0x0243C394#32), .sub (.a32 .eq) false 12#4 3#4 (.immA 3#4 148#8)),
  ((.a32 0x426301EE#32), .rsb (.a32 .mi) false 0#4 3#4 (.immA 1#4 238#8)),
  ((.a32 0x428E80A8#32), .add (.a32 .mi) false 8#4 14#4 (.immA 0#4 168#8)),
  ((.a32 0xC2A4977F#32), .adc (.a32 .gt) false 9#4 4#4 (.immA 7#4 127#8)),
  ((.a32 0x82DF9523#32), .sbc (.a32 .hi) true 9#4 15#4 (.immA 5#4 35#8)),
  ((.a32 0x12E9B42F#32), .rsc .ne false 11#4 9#4 (.immA 4#4 47#8)),
  ((.a32 0x01084050#32), .qadd (.a32 .eq) 4#4 0#4 8#4),
  ((.a32 0x11264057#32), .qsub (.a32 .ne) 4#4 7#4 6#4),
  ((.a32 0x0149A05B#32), .qdadd (.a32 .eq) 10#4 11#4 9#4),
  ((.a32 0x716F305F#32), .qdsub (.a32 .vc) 3#4 15#4 15#4),
  ((.t32 0xF10C0A5A#32), .add .thumb false 10#4 12#4 (.immT 90#12)),
  ((.t32 0xF55725F5#32), .adc .thumb true 5#4 7#4 (.immT 2805#12)),
  ((.t32 0xF56F3CD6#32), .sbc .thumb false 12#4 15#4 (.immT 3030#12)),
  ((.t32 0xF5B643B8#32), .sub .thumb true 3#4 6#4 (.immT 3256#12)),
  ((.t32 0xF5DE1CA6#32), .rsb .thumb true 12#4 14#4 (.immT 2470#12)),
  ((.t32 0xF2016D20#32), .addw 13#4 1#4 1568#12),
  ((.t32 0xF6A27EC3#32), .subw 14#4 2#4 4035#12),
  ((.t32 0xF60F048B#32), .adr true 4#4 2187#12),
  ((.t32 0xF3DE8F01#32), .subsPcLr 1#8),
  ((.t32 0xFA87FF82#32), .qadd .thumb 15#4 2#4 7#4),
  ((.t32 0xFA8AF89B#32), .qdadd .thumb 8#4 11#4 10#4),
  ((.t32 0xFA83F0AA#32), .qsub .thumb 0#4 10#4 3#4),
  ((.t32 0xFA86FCB5#32), .qdsub .thumb 12#4 5#4 6#4)]

theorem test_decode_add_subtract : ∀ x ∈ words_add_subtract, decodeCode x.1 = some x.2 := by decide +kernel

/-- spec/opcode_table.json, the pattern of each row with its fields filled in. -/
def words_parallel_saturate_1 : List (Code × Instr) := [
  ((.a32 0x36186F1D#32), .sadd16 (.a32 .cc) 6#4 8#4 13#4),
  ((.a32 0x062CDF15#32), .qadd16 (.a32 .eq) 13#4 12#4 5#4),
  ((.a32 0x66366F14#32), .shadd16 (.a32 .vs) 6#4 6#4 4#4),
  ((.a32 0x765B5F1A#32), .uadd16 (.a32 .vc) 5#4 11#4 10#4),
  ((.a32 0xA6666F16#32), .uqadd16 (.a32 .ge) 6#4 6#4 6#4),
  ((.a32 0x36747F14#32), .uhadd16 (.a32 .cc) 7#4 4#4 4#4),
  ((.a32 0x2618CF73#32), .ssub16 (.a32 .cs) 12#4 8#4 3#4),
  ((.a32 0xD62D4F76#32), .qsub16 (.a32 .le) 4#4 13#4 6#4),
  ((.a32 0xC6303F76#32), .shsub16 (.a32 .gt) 3#4 0#4 6#4),
  ((.a32 0xB65B3F7A#32), .usub16 (.a32 .lt) 3#4 11#4 10#4),
  ((.a32 0x6662FF73#32), .uqsub16 (.a32 .vs) 15#4 2#4 3#4),
  ((.a32 0x0671FF74#32), .uhsub16 (.a32 .eq) 15#4 1#4 4#4),
  ((.a32 0x66153F96#32), .sadd8 (.a32 .vs) 3#4 5#4 6#4),
  ((.a32 0x56259F93#32), .qadd8 (.a32 .pl) 9#4 5#4 3#4),
  ((.a32 0x1634EF92#32), .shadd8 (.a32 .ne) 14#4 4#4 2#4),
  ((.a32 0x365ACF9E#32), .uadd8 (.a32 .cc) 12#4 10#4 14#4),
  ((.a32 0xD66BDF96#32), .uqadd8 (.a32 .le) 13#4 11#4 6#4),
  ((.a32 0xB6701F96#32), .uhadd8 (.a32 .lt) 1#4 0#4 6#4),
  ((.a32 0x561DEFFB#32), .ssub8 (.a32 .pl) 14#4 13#4 11#4),
  ((.a32 0xB62C6FF5#32), .qsub8 (.a32 .lt) 6#4 12#4 5#4),
  ((.a32 0x3630AFF2#32), .shsub8 (.a32 .cc) 10#4 0#4 2#4),
  ((.a32 0xC656AFF8#32), .usub8 (.a32 .gt) 10#4 6#4 8#4),
  ((.a32 0x86635FFC#32), .uqsub8 (.a32 .hi) 5#4 3#4 12#4),
  ((.a32 0x467ABFFD#32), .uhsub8 (.a32 .mi) 11#4 10#4 13#4),
  ((.a32 0x561C6F35#32), .sasx (.a32 .pl) 6#4 12#4 5#4),
  ((.a32 0x262A9F3F#32), .qasx (.a32 .cs) 9#4 10#4 15#4),
  ((.a32 0x3630BF31#32), .shasx (.a32 .cc) 11#4 0#4 1#4),
  ((.a32 0x76589F3A#32), .uasx (.a32 .vc) 9#4 8#4 10#4),
  ((.a32 0x666C5F32#32), .uqasx (.a32 .vs) 5#4 12#4 2#4),
  ((.a32 0xC67F6F33#32), .uhasx (.a32 .gt) 6#4 15#4 3#4),
  ((.a32 0xC6103F53#32), .ssax (.a32 .gt) 3#4 0#4 3#4),
  ((.a32 0x7628EF5C#32), .qsax (.a32 .vc) 14#4 8#4 12#4),
  ((.a32 0x1636CF50#32), .shsax (.a32 .ne) 12#4 6#4 0#4),
  ((.a32 0x36588F58#32), .usax (.a32 .cc) 8#4 8#4 8#4),
  ((.a32 0xA66D3F5E#32), .uqsax (.a32 .ge) 3#4 13#4 14#4),
  ((.a32 0x2671CF55#32), .uhsax (.a32 .cs) 12#4 1#4 5#4),
  ((.a32 0xC78FF51F#32), .usad8 (.a32 .gt) 15#4 15#4 5#4),
  ((.a32 0xC789B91F#32), .usada8 (.a32 .gt) 9#4 15#4 9#4 11#4),
  ((.a32 0x86B29097#32), .ssat (.a32 .hi) 9#4 18#5 false 1#5 7#4),
  ((.a32 0x16A5DF3C#32), .ssat16 (.a32 .ne) 13#4 5#4 12#4)]

theorem test_decode_parallel_saturate_1 : ∀ x ∈ words_parallel_saturate_1, decodeCode x.1 = some x.2 := by decide +kernel

/-- spec/opcode_table.json, the pattern of each row with its fields filled in. -/
def words_parallel_saturate_2 : List (Code × Instr) := [
  ((.a32 0x16F4C1D2#32), .usat (.a32 .ne) 12#4 20#5 true 3#5 2#4),
  ((.a32 0x76EDFF38#32), .usat16 (.a32 .vc) 15#4 13#4 8#4),
  ((.t32 0xFA96F505#32), .sadd16 .thumb 5#4 6#4 5#4),
  ((.t32 0xFA9AFF19#32), .qadd16 .thumb 15#4 10#4 9#4),
  ((.t32 0xFA9BFD29#32), .shadd16 .thumb 13#4 11#4 9#4),
  ((.t32 0xFA9BFF47#32), .uadd16 .thumb 15#4 11#4 7#4),
  ((.t32 0xFA97FB5A#32), .uqadd16 .thumb 11#4 7#4 10#4),
  ((.t32 0xFA95F462#32), .uhadd16 .thumb 4#4 5#4 2#4),
  ((.t32 0xFAD2F309#32), .ssub16 .thumb 3#4 2#4 9#4),
  ((.t32 0xFAD3FE1F#32), .qsub16 .thumb 14#4 3#4 15#4),
  ((.t32 0xFAD1F52D#32), .shsub16 .thumb 5#4 1#4 13#4),
  ((.t32 0xFADFF14B#32), .usub16 .thumb 1#4 15#4 11#4),
  ((.t32 0xFAD8FC5C#32), .uqsub16 .thumb 12#4 8#4 12#4),
  ((.t32 0xFAD8F86B#32), .uhsub16 .thumb 8#4 8#4 11#4),
  ((.t32 0xFA8AF50A#32), .sadd8 .thumb 5#4 10#4 10#4),
  ((.t32 0xFA86F41D#32), .qadd8 .thumb 4#4 6#4 13#4),
  ((.t32 0xFA84F825#32), .shadd8 .thumb 8#4 4#4 5#4),
  ((.t32 0xFA84F64C#32), .uadd8 .thumb 6#4 4#4 12#4),
  ((.t32 0xFA89F755#32), .uqadd8 .thumb 7#4 9#4 5#4),
  ((.t32 0xFA80FF64#32), .uhadd8 .thumb 15#4 0#4 4#4),
  ((.t32 0xFAC8F80D#32), .ssub8 .thumb 8#4 8#4 13#4),
  ((.t32 0xFAC8FC1C#32), .qsub8 .thumb 12#4 8#4 12#4),
  ((.t32 0xFAC4F125#32), .shsub8 .thumb 1#4 4#4 5#4),
  ((.t32 0xFAC3F146#32), .usub8 .thumb 1#4 3#4 6#4),
  ((.t32 0xFAC9FB53#32), .uqsub8 .thumb 11#4 9#4 3#4),
  ((.t32 0xFACCFA60#32), .uhsub8 .thumb 10#4 12#4 0#4),
  ((.t32 0xFAAFF50B#32), .sasx .thumb 5#4 15#4 11#4),
  ((.t32 0xFAA2F91E#32), .qasx .thumb 9#4 2#4 14#4),
  ((.t32 0xFAA9F72C#32), .shasx .thumb 7#4 9#4 12#4),
  ((.t32 0xFAADF44C#32), .uasx .thumb 4#4 13#4 12#4),
  ((.t32 0xFAA6F954#32), .uqasx .thumb 9#4 6#4 4#4),
  ((.t32 0xFAAEF563#32), .uhasx .thumb 5#4 14#4 3#4),
  ((.t32 0xFAE8FF0D#32), .ssax .thumb 15#4 8#4 13#4),
  ((.t32 0xFAE3F41A#32), .qsax .thumb 4#4 3#4 10#4),
  ((.t32 0xFAE0F824#32), .shsax .thumb 8#4 0#4 4#4),
  ((.t32 0xFAE8FC48#32), .usax .thumb 12#4 8#4 8#4),
  ((.t32 0xFAEAF752#32), .uqsax .thumb 7#4 10#4 2#4),
  ((.t32 0xFAEFF66B#32), .uhsax .thumb 6#4 15#4 11#4),
  ((.t32 0xFB78F104#32), .usad8 .thumb 1#4 8#4 4#4),
  ((.t32 0xFB720902#32), .usada8 .thumb 9#4 2#4 2#4 0#4)]

theorem test_decode_parallel_saturate_2 : ∀ x ∈ words_parallel_saturate_2, decodeCode x.1 = some x.2 := by decide +kernel

/-- spec/opcode_table.json, the pattern of each row with its fields filled in. -/
def words_parallel_saturate_3 : List (Code × Instr) := [
  ((.t32 0xF3055F4C#32), .ssat .thumb 15#4 12#5 false 21#5 5#4),
  ((.t32 0xF32D0F01#32), .ssat16 .thumb 15#4 1#4 13#4),
  ((.t32 0xF3AB6150#32), .usat .thumb 1#4 16#5 true 25#5 11#4),
  ((.t32 0xF3A80609#32), .usat16 .thumb 6#4 9#4 8#4)]

theorem test_decode_parallel_saturate_3 : ∀ x ∈ words_parallel_saturate_3, decodeCode x.1 = some x.2 := by decide +kernel

/-- spec/opcode_table.json, the pattern of each row with its fields filled in. -/
def words_multiply_divide_1 : List (Code × Instr) := [
  ((.a32 0x70030E94#32), .mul (.a32 .vc) false 3#4 4#4 14#4),
  ((.a32 0x7021DE93#32), .mla (.a32 .vc) false 1#4 3#4 14#4 13#4),
  ((.a32 0x6061B493#32), .mls (.a32 .vs) 1#4 3#4 4#4 11#4),
  ((.a32 0xB04E4D9E#32), .umaal (.a32 .lt) 4#4 14#4 14#4 13#4),
  ((.a32 0x809B4994#32), .umull (.a32 .hi) true 4#4 11#4 4#4 9#4),
  ((.a32 0x70B39B98#32), .umlal (.a32 .vc) true 9#4 3#4 8#4 11#4),
  ((.a32 0x80C87697#32), .smull (.a32 .hi) false 7#4 8#4 7#4 6#4),
  ((.a32 0x60E10898#32), .smlal (.a32 .vs) false 0#4 1#4 8#4 8#4),
  ((.a32 0xD10013A2#32), .smlaxy (.a32 .le) true false 0#4 2#4 3#4 1#4),
  ((.a32 0x21257BCF#32), .smlawy (.a32 .cs) true 5#4 15#4 11#4 7#4),
  ((.a32 0xB1260AEF#32), .smulwy (.a32 .lt) true 6#4 15#4 10#4),
  ((.a32 0x41423EAD#32), .smlalxy (.a32 .mi) true false 3#4 2#4 13#4 14#4),
  ((.a32 0x816C04CA#32), .smulxy (.a32 .hi) false true 12#4 10#4 4#4),
  ((.a32 0x9705FD33#32), .smuad (.a32 .ls) true 5#4 3#4 13#4),
  ((.a32 0xE70A223F#32), .smlad (.a32 .al) true 10#4 15#4 2#4 2#4),
  ((.a32 0xE709F059#32), .smusd (.a32 .al) false 9#4 9#4 0#4),
  ((.a32 0x67029F79#32), .smlsd (.a32 .vs) true 2#4 9#4 15#4 9#4),
  ((.a32 0x4747BA33#32), .smlald (.a32 .mi) true 11#4 7#4 3#4 10#4),
  ((.a32 0xA74E8E7E#32), .smlsld (.a32 .ge) true 8#4 14#4 14#4 14#4),
  ((.a32 0xA757FC12#32), .smmul (.a32 .ge) false 7#4 2#4 12#4),
  ((.a32 0xB75B0B3C#32), .smmla (.a32 .lt) true 11#4 12#4 11#4 0#4),
  ((.a32 0x675BC4D5#32), .smmls (.a32 .vs) false 11#4 5#4 4#4 12#4),
  ((.a32 0x2E20E019#32), .mia .cs 9#4 14#4),
  ((.a32 0x0E287011#32), .miaph .eq 1#4 7#4),
  ((.a32 0x5E2ED012#32), .miaxy .pl true false 2#4 13#4),
  ((.a32 0xA712F014#32), .sdiv (.a32 .ge) 2#4 4#4 0#4),
  ((.a32 0x373DF717#32), .udiv (.a32 .cc) 13#4 7#4 7#4),
  ((.t32 0xFB07FE01#32), .mul .thumb false 14#4 7#4 1#4),
  ((.t32 0xFB050503#32), .mla .thumb false 5#4 5#4 3#4 0#4),
  ((.t32 0xFB028B10#32), .mls .thumb 11#4 2#4 0#4 8#4),
  ((.t32 0xFB19F226#32), .smulxy .thumb true false 2#4 9#4 6#4),
  ((.t32 0xFB12B02F#32), .smlaxy .thumb true false 0#4 2#4 15#4 11#4),
  ((.t32 0xFB2CF90F#32), .smuad .thumb false 9#4 12#4 15#4),
  ((.t32 0xFB2CD800#32), .smlad .thumb false 8#4 12#4 0#4 13#4),
  ((.t32 0xFB34F71C#32), .smulwy .thumb true 7#4 4#4 12#4),
  ((.t32 0xFB3B8B1B#32), .smlawy .thumb true 11#4 11#4 11#4 8#4),
  ((.t32 0xFB49F80A#32), .smusd .thumb false 8#4 9#4 10#4),
  ((.t32 0xFB438A05#32), .smlsd .thumb false 10#4 3#4 5#4 8#4),
  ((.t32 0xFB56F109#32), .smmul .thumb false 1#4 6#4 9#4),
  ((.t32 0xFB565B04#32), .smmla .thumb false 11#4 6#4 4#4 5#4)]

theorem test_decode_multiply_divide_1 : ∀ x ∈ words_multiply_divide_1, decodeCode x.1 = some x.2 := by decide +kernel

/-- spec/opcode_table.json, the pattern of each row with its fields filled in. -/
def words_multiply_divide_2 : List (Code × Instr) := [
  ((.t32 0xFB64BB0D#32), .smmls .thumb false 11#4 4#4 13#4 11#4),
  ((.t32 0xFB800C01#32), .smull .thumb false 0#4 12#4 0#4 1#4),
  ((.t32 0xFB9CF3FA#32), .sdiv .thumb 3#4 12#4 10#4),
  ((.t32 0xFBA6050A#32), .umull .thumb false 0#4 5#4 6#4 10#4),
  ((.t32 0xFBB2F3FA#32), .udiv .thumb 3#4 2#4 10#4),
  ((.t32 0xFBCDF70F#32), .smlal .thumb false 15#4 7#4 13#4 15#4),
  ((.t32 0xFBCD589A#32), .smlalxy .thumb false true 5#4 8#4 13#4 10#4),
  ((.t32 0xFBC5B0CC#32), .smlald .thumb false 11#4 0#4 5#4 12#4),
  ((.t32 0xFBD16BDD#32), .smlsld .thumb true 6#4 11#4 1#4 13#4),
  ((.t32 0xFBE33E0D#32), .umlal .thumb false 3#4 14#4 3#4 13#4),
  ((.t32 0xFBEEDC67#32), .umaal .thumb 13#4 12#4 14#4 7#4)]

theorem test_decode_multiply_divide_2 : ∀ x ∈ words_multiply_divide_2, decodeCode x.1 = some x.2 := by decide +kernel

/-- spec/opcode_table.json, the pattern of each row with its fields filled in. -/
def words_bit_fields_1 : List (Code × Instr) := [
  ((.a32 0xA7C8FF9F#32), .bfc (.a32 .ge) 15#4 31#5 8#5),
  ((.a32 0x27C2DB10#32), .bfi (.a32 .cs) 13#4 0#4 22#5 2#5),
  ((.a32 0xC7A5E0DB#32), .sbfx (.a32 .gt) 14#4 11#4 1#5 5#5),
  ((.a32 0x07E7DD54#32), .ubfx (.a32 .eq) 13#4 4#4 26#5 7#5),
  ((.a32 0x7685C51A#32), .pkhbt (.a32 .vc) 12#4 5#4 10#4 10#5),
  ((.a32 0x668CD958#32), .pkhtb (.a32 .vs) 13#4 12#4 8#4 18#5),
  ((.a32 0x168FF873#32), .sxtb16 (.a32 .ne) 15#4 3#4 2#2),
  ((.a32 0x9684507E#32), .sxtab16 (.a32 .ls) 5#4 4#4 14#4 0#2),
  ((.a32 0x06AFF07A#32), .sxtb (.a32 .eq) 15#4 10#4 0#2),
  ((.a32 0x36A65876#32), .sxtab (.a32 .cc) 5#4 6#4 6#4 2#2),
  ((.a32 0x76BFF47E#32), .sxth (.a32 .vc) 15#4 14#4 1#2),
  ((.a32 0x56B8C479#32), .sxtah (.a32 .pl) 12#4 8#4 9#4 1#2),
  ((.a32 0xA6CF2C77#32), .uxtb16 (.a32 .ge) 2#4 7#4 3#2),
  ((.a32 0xC6C1647C#32), .uxtab16 (.a32 .gt) 6#4 1#4 12#4 1#2),
  ((.a32 0x86EF1470#32), .uxtb (.a32 .hi) 1#4 0#4 1#2),
  ((.a32 0x56ED5874#32), .uxtab (.a32 .pl) 5#4 13#4 4#4 2#2),
  ((.a32 0x86FF4871#32), .uxth (.a32 .hi) 4#4 1#4 2#2),
  ((.a32 0x46F50474#32), .uxtah (.a32 .mi) 0#4 5#4 4#4 1#2),
  ((.a32 0x46BF2F3B#32), .rev (.a32 .mi) 2#4 11#4),
  ((.a32 0x86BF3FBF#32), .rev16 (.a32 .hi) 3#4 15#4),
  ((.a32 0xE6FF2F39#32), .rbit (.a32 .al) 2#4 9#4),
  ((.a32 0x06FF6FBD#32), .revsh (.a32 .eq) 6#4 13#4),
  ((.a32 0x6682EFB6#32), .sel (.a32 .vs) 14#4 2#4 6#4),
  ((.t32 0xF36F7E82#32), .bfc .thumb 14#4 30#5 2#5),
  ((.t32 0xF36154D5#32), .bfi .thumb 4#4 1#4 23#5 21#5),
  ((.t32 0xF34856D9#32), .sbfx .thumb 6#4 8#4 23#5 25#5),
  ((.t32 0xF3C12F0E#32), .ubfx .thumb 15#4 1#4 8#5 14#5),
  ((.t32 0xEAC52308#32), .pkhbt .thumb 3#4 5#4 8#4 8#5),
  ((.t32 0xEAC8152A#32), .pkhtb .thumb 5#4 8#4 10#4 4#5),
  ((.t32 0xFA0FF8AE#32), .sxth .thumb 8#4 14#4 2#2),
  ((.t32 0xFA06F0B6#32), .sxtah .thumb 0#4 6#4 6#4 3#2),
  ((.t32 0xFA1FFFA7#32), .uxth .thumb 15#4 7#4 2#2),
  ((.t32 0xFA12F3BF#32), .uxtah .thumb 3#4 2#4 15#4 3#2),
  ((.t32 0xFA2FF78F#32), .sxtb16 .thumb 7#4 15#4 0#2),
  ((.t32 0xFA21F29B#32), .sxtab16 .thumb 2#4 1#4 11#4 1#2),
  ((.t32 0xFA3FF58A#32), .uxtb16 .thumb 5#4 10#4 0#2),
  ((.t32 0xFA31FB99#32), .uxtab16 .thumb 11#4 1#4 9#4 1#2),
  ((.t32 0xFA4FF3B5#32), .sxtb .thumb 3#4 5#4 3#2),
  ((.t32 0xFA4CF0BF#32), .sxtab .thumb 0#4 12#4 15#4 3#2),
  ((.t32 0xFA5FF286#32), .uxtb .thumb 2#4 6#4 0#2)]

theorem test_decode_bit_fields_1 : ∀ x ∈ words_bit_fields_1, decodeCode x.1 = some x.2 := by decide +kernel

/-- spec/opcode_table.json, the pattern of each row with its fields filled in. -/
def words_bit_fields_2 : List (Code × Instr) := [
  ((.t32 0xFA5AF6BC#32), .uxtab .thumb 6#4 10#4 12#4 3#2),
  ((.t32 0xFA9AFA8A#32), .rev .thumb 10#4 10#4),
  ((.t32 0xFA96F696#32), .rev16 .thumb 6#4 6#4),
  ((.t32 0xFA95F4A5#32), .rbit .thumb 4#4 5#4),
  ((.t32 0xFA94F1B4#32), .revsh .thumb 1#4 4#4),
  ((.t32 0xFAA8F388#32), .sel .thumb 3#4 8#4 8#4)]

theorem test_decode_bit_fields_2 : ∀ x ∈ words_bit_fields_2, decodeCode x.1 = some x.2 := by decide +kernel

/-- spec/opcode_table.json, the pattern of each row with its fields filled in. -/
def words_branch : List (Code × Instr) := [
  ((.a32 0x1AD38855#32), .b (.a32 .ne 13862997#24)),
  ((.a32 0x9BA1D7A3#32), .bl (.a32 .ls 10606499#24)),
  ((.a32 0xFBCF98A2#32), .blxLabel (.a32 true 13605026#24)),
  ((.a32 0x212FFF19#32), .bx (.a32 .cs) 9#4),
  ((.a32 0xE12FFF22#32), .bxj (.a32 .al) 2#4),
  ((.a32 0xB12FFF32#32), .blxReg (.a32 .lt) 2#4),
  ((.t16 0xBFBB#16), .it 11#4 11#4),
  ((.t32 0xF58185C3#32), .b (.t3 .vs true false false 1#6 1475#11)),
  ((.t32 0xF765FC77#32), .bl (.t32 true true true 869#10 1143#11)),
  ((.t32 0xF511C58A#32), .blxLabel (.t32 true false false 273#10 709#10)),
  ((.t32 0xF3CD8F00#32), .bxj .thumb 13#4),
  ((.t16 0xB1F9#16), .cbz false 31#5 1#3),
  ((.t16 0xBB3C#16), .cbnz true 7#5 4#3),
  ((.t16 0x4710#16), .bx .thumb 2#4),
  ((.t16 0x47F0#16), .blxReg .thumb 14#4),
  ((.t32 0xE8DFF00C#32), .tbb 15#4 12#4),
  ((.t32 0xE8D6F01D#32), .tbh 6#4 13#4)]

theorem test_decode_branch : ∀ x ∈ words_branch, decodeCode x.1 = some x.2 := by decide +kernel

/-- spec/opcode_table.json, the pattern of each row with its fields filled in. -/
def words_status : List (Code × Instr) := [
  ((.a32 0x410FC000#32), .mrs (.a32 .mi) false 12#4),
  ((.a32 0xE12EF000#32), .msrReg (.a32 .al) false 14#4 0#4),
  ((.a32 0xC367F93A#32), .msrImm .gt true 7#4 9#4 58#8),
  ((.a32 0xF10A01C5#32), .cpsie false true true true true 5#5),
  ((.a32 0xF10E0047#32), .cpsid false true false false true 7#5),
  ((.a32 0xF1020015#32), .cps false 21#5),
  ((.a32 0xF1010200#32), .setend false true),
  ((.t16 0xB650#16), .setend true false),
  ((.t32 0xF3EF8E00#32), .mrs .thumb false 14#4),
  ((.t32 0xF38B8D00#32), .msrReg .thumb false 13#4 11#4),
  ((.t32 0xF3AF85F2#32), .cpsie true true true true true 18#5),
  ((.t32 0xF3AF879F#32), .cpsid true true true false false 31#5),
  ((.t32 0xF3AF8117#32), .cps true 23#5)]

theorem test_decode_status : ∀ x ∈ words_status, decodeCode x.1 = some x.2 := by decide +kernel

/-- spec/opcode_table.json, the pattern of each row with its fields filled in. -/
def words_load_store_1 : List (Code × Instr) := [
  ((.a32 0x85BC2342#32), .ldr (.a32 .hi) 2#4 (.aImm .pre true 12#4 834#12)),
  ((.a32 0x46156C8E#32), .ldr (.a32 .mi) 6#4 (.aReg .post false 5#4 14#4 .lsl 25#5)),
  ((.a32 0x24371506#32), .ldrt (.a32 .cs) 1#4 (.aImm false 7#4 1286#12)),
  ((.a32 0x36BD2AE4#32), .ldrt (.a32 .cc) 2#4 (.aReg true 13#4 4#4 .ror 21#5)),
  ((.a32 0xC558A60A#32), .ldrb (.a32 .gt) 10#4 (.aImm .offset false 8#4 1546#12)),
  ((.a32 0x54F97B48#32), .ldrbt (.a32 .pl) 7#4 (.aImm true 9#4 2888#12)),
  ((.a32 0x75AA2B8E#32), .str (.a32 .vc) 2#4 (.aImm .pre true 10#4 2958#12)),
  ((.a32 0xA423093C#32), .strt (.a32 .ge) 0#4 (.aImm false 3#4 2364#12)),
  ((.a32 0x1549C085#32), .strb (.a32 .ne) 12#4 (.aImm .offset false 9#4 133#12)),
  ((.a32 0xC4E3FB0D#32), .strbt (.a32 .gt) 15#4 (.aImm true 3#4 2829#12)),
  ((.a32 0x91F927B3#32), .ldrh (.a32 .ls) 2#4 (.aImm8 .pre true 9#4 115#8)),
  ((.a32 0x90F72BBD#32), .ldrht (.a32 .ls) 2#4 (.aImm8 true 7#4 189#8)),
  ((.a32 0x015EECD4#32), .ldrsb (.a32 .eq) 14#4 (.aImm8 .offset false 14#4 196#8)),
  ((.a32 0x9076ABDF#32), .ldrsbt (.a32 .ls) 10#4 (.aImm8 false 6#4 191#8)),
  ((.a32 0xE15793F6#32), .ldrsh (.a32 .al) 9#4 (.aImm8 .offset false 7#4 54#8)),
  ((.a32 0x711840F2#32), .ldrsh (.a32 .vc) 4#4 (.aReg0 .offset false 8#4 2#4)),
  ((.a32 0xE07E21F0#32), .ldrsht (.a32 .al) 2#4 (.aImm8 false 14#4 16#8)),
  ((.a32 0x904805B4#32), .strh (.a32 .ls) 0#4 (.aImm8 .post false 8#4 84#8)),
  ((.a32 0x20EAF1B9#32), .strht (.a32 .cs) 15#4 (.aImm8 true 10#4 25#8)),
  ((.a32 0x5023D0B7#32), .strht (.a32 .pl) 13#4 (.aReg0 false 3#4 7#4)),
  ((.t32 0xF8D4C311#32), .ldr .thumb 12#4 (.tImm12 4#4 785#12)),
  ((.t32 0xF8520B3D#32), .ldr .thumb 0#4 (.tImm8 .post true 2#4 61#8)),
  ((.t32 0xF85DE010#32), .ldr .thumb 14#4 (.tReg 13#4 0#4 1#2)),
  ((.t32 0xF85BBE0C#32), .ldrt .thumb 11#4 (.tImm8 11#4 12#8)),
  ((.t32 0xF85FBD36#32), .ldr .thumb 11#4 (.tLit false 3382#12)),
  ((.t32 0xF89339A6#32), .ldrb .thumb 3#4 (.tImm12 3#4 2470#12)),
  ((.t32 0xF813EE46#32), .ldrbt .thumb 14#4 (.tImm8 3#4 70#8)),
  ((.t32 0xF995D3CE#32), .ldrsb .thumb 13#4 (.tImm12 5#4 974#12)),
  ((.t32 0xF91AFE68#32), .ldrsbt .thumb 15#4 (.tImm8 10#4 104#8)),
  ((.t32 0xF8B98843#32), .ldrh .thumb 8#4 (.tImm12 9#4 2115#12)),
  ((.t32 0xF8331E9F#32), .ldrht .thumb 1#4 (.tImm8 3#4 159#8)),
  ((.t32 0xF9BAC720#32), .ldrsh .thumb 12#4 (.tImm12 10#4 1824#12)),
  ((.t32 0xF933BBF7#32), .ldrsh .thumb 11#4 (.tImm8 .post true 3#4 247#8)),
  ((.t32 0xF93D300B#32), .ldrsh .thumb 3#4 (.tReg 13#4 11#4 0#2)),
  ((.t32 0xF937BEBC#32), .ldrsht .thumb 11#4 (.tImm8 7#4 188#8)),
  ((.t32 0xF9BF61CB#32), .ldrsh .thumb 6#4 (.tLit true 459#12)),
  ((.t32 0xF8CA5FEC#32), .str .thumb 5#4 (.tImm12 10#4 4076#12)),
  ((.t32 0xF8499E1D#32), .strt .thumb 9#4 (.tImm8 9#4 29#8)),
  ((.t32 0xF8824AE1#32), .strb .thumb 4#4 (.tImm12 2#4 2785#12)),
  ((.t32 0xF804CEE5#32), .strbt .thumb 12#4 (.tImm8 4#4 229#8))]

theorem test_decode_load_store_1 : ∀ x ∈ words_load_store_1, decodeCode x.1 = some x.2 := by decide +kernel

/-- spec/opcode_table.json, the pattern of each row with its fields filled in. -/
def words_load_store_2 : List (Code × Instr) := [
  ((.t32 0xF8AD3E3D#32), .strh .thumb 3#4 (.tImm12 13#4 3645#12)),
  ((.t32 0xF826FEFC#32), .strht .thumb 15#4 (.tImm8 6#4 252#8))]

theorem test_decode_load_store_2 : ∀ x ∈ words_load_store_2, decodeCode x.1 = some x.2 := by decide +kernel

/-- Words of instructions that are not in scope (R114): SWI, LDM, NOP in A32 and in Thumb. -/
theorem test_decode_not_in_scope : ∀ c ∈ [Code.a32 0xEF000000#32, .a32 0xE8BD8000#32, .a32 0xE320F000#32,
    .t16 0xBF00#16, .t32 0xF3AF8000#32], decodeCode c = none := by decide +kernel

/-- The bytes of a Thumb pair: the first halfword at the lower address, each little-endian (R84, R111). -/
theorem test_decode_bytes : decode true false [0x01#8, 0xF1#8, 0x01#8, 0x00#8, 0xAA#8] =
    .ok (.add .thumb false 0#4 1#4 (.immT 1#12), [0xAA#8]) := by decide +kernel

/-- A halfword that begins a pair is not read alone (R111). -/
theorem test_decode_truncated : decode true false [0x01#8, 0xF1#8] = .error .truncated := by decide +kernel

/-! ### Vectors of spec/95_test_vectors.md, V40 to V44, one step each -/

/-- V40 of spec/95_test_vectors.md. -/
def vectors_add_subtract : List Vec := [
  ⟨0xEB110002, true, [(1, 0x7FFFFFFF), (2, 0x1)], [(0, 0x80000000)], [true, false, false, true, false], 9, 9⟩,
  ⟨0xE0910002, false, [(1, 0x80000000), (2, 0x80000000)], [(0, 0x0)], [false, true, true, true, false], 9, 9⟩,
  ⟨0xEB510002, true, [(1, 0xFFFFFFFF), (2, 0x0)], [(0, 0x0)], [false, true, true, false, false], 9, 9⟩,
  ⟨0xE0510002, false, [(1, 0x5), (2, 0x7)], [(0, 0xFFFFFFFE)], [true, false, false, false, false], 9, 9⟩,
  ⟨0xE0D10002, false, [(1, 0x5), (2, 0x5)], [(0, 0x0)], [false, true, true, false, false], 9, 9⟩,
  ⟨0xEBD10002, true, [(1, 0x1), (2, 0x0)], [(0, 0xFFFFFFFF)], [true, false, false, false, false], 9, 9⟩,
  ⟨0xF60170FF, true, [(1, 0xFFFFF001)], [(0, 0x0)], [false, false, true, false, false], 9, 9⟩,
  ⟨0xF6A170FF, true, [(1, 0xFFE)], [(0, 0xFFFFFFFF)], [false, false, true, false, false], 9, 9⟩,
  ⟨0xF101407F, true, [(1, 0x1000000)], [(0, 0x0)], [false, false, true, false, false], 9, 9⟩,
  ⟨0xE1020051, false, [(1, 0x7FFFFFFF), (2, 0x1)], [(0, 0x7FFFFFFF)], [false, false, true, false, true], 9, 9⟩,
  ⟨0xFA82F0A1, true, [(1, 0x80000000), (2, 0x1)], [(0, 0x80000000)], [false, false, true, false, true], 9, 9⟩,
  ⟨0xE1420051, false, [(1, 0x1), (2, 0x40000000)], [(0, 0x7FFFFFFF)], [false, false, true, false, true], 9, 9⟩,
  ⟨0xFA82F091, true, [(1, 0xFFFFFFFF), (2, 0x40000000)], [(0, 0x7FFFFFFE)], [false, false, true, false, true], 9, 9⟩,
  ⟨0xE1620051, false, [(1, 0x0), (2, 0xC0000000)], [(0, 0x7FFFFFFF)], [false, false, true, false, true], 9, 9⟩]

theorem test_vectors_add_subtract : ∀ v ∈ vectors_add_subtract, v.holds = true := by decide +kernel

/-- V41 of spec/95_test_vectors.md. -/
def vectors_parallel_saturate : List Vec := [
  ⟨0xFA91F002, true, [(1, 0x7FFF8000), (2, 0x1FFFF)], [(0, 0x80007FFF)], [false, false, true, false, false], 9, 12⟩,
  ⟨0xE6210F12, false, [(1, 0x7FFF8000), (2, 0x1FFFF)], [(0, 0x7FFF8000)], [false, false, true, false, false], 9, 9⟩,
  ⟨0xFA91F022, true, [(1, 0x7FFF8000), (2, 0x1FFFF)], [(0, 0x4000BFFF)], [false, false, true, false, false], 9, 9⟩,
  ⟨0xE6510F92, false, [(1, 0xFF80017F), (2, 0x1800180)], [(0, 0x2FF)], [false, false, true, false, false], 9, 12⟩,
  ⟨0xFA81F052, true, [(1, 0xFF80017F), (2, 0x1800180)], [(0, 0xFFFF02FF)], [false, false, true, false, false], 9, 9⟩,
  ⟨0xE6710F92, false, [(1, 0xFF80017F), (2, 0x1800180)], [(0, 0x8080017F)], [false, false, true, false, false], 9, 9⟩,
  ⟨0xFAC1F042, true, [(1, 0x10FF0580), (2, 0x20FE0581)], [(0, 0xF00100FF)], [false, false, true, false, false], 9, 6⟩,
  ⟨0xE6610FF2, false, [(1, 0x10FF0580), (2, 0x20FE0581)], [(0, 0x10000)], [false, false, true, false, false], 9, 9⟩,
  ⟨0xFAC1F002, true, [(1, 0x10FF0580), (2, 0x20FE0581)], [(0, 0xF00100FF)], [false, false, true, false, false], 9, 6⟩,
  ⟨0xE6110F32, false, [(1, 0x30004), (2, 0x10002)], [(0, 0x50003)], [false, false, true, false, false], 9, 15⟩,
  ⟨0xFAE1F012, true, [(1, 0x80007FFF), (2, 0x17FFF)], [(0, 0x80007FFF)], [false, false, true, false, false], 9, 9⟩,
  ⟨0xE780F211, false, [(1, 0x1FF0380), (2, 0x2000480)], [(0, 0x101)], [false, false, true, false, false], 9, 9⟩,
  ⟨0xF3010007, true, [(1, 0xFF)], [(0, 0x7F)], [false, false, true, false, true], 9, 9⟩,
  ⟨0xE6BF0011, false, [(1, 0x80000000)], [(0, 0x80000000)], [false, false, true, false, false], 9, 9⟩,
  ⟨0xF3210007, true, [(1, 0x7FFF8000)], [(0, 0x7FFF80)], [false, false, true, false, true], 9, 9⟩,
  ⟨0xE6E80011, false, [(1, 0xFFFFFFFF)], [(0, 0x0)], [false, false, true, false, true], 9, 9⟩,
  ⟨0xF3A10008, true, [(1, 0x100FFFF)], [(0, 0xFF0000)], [false, false, true, false, true], 9, 9⟩]

theorem test_vectors_parallel_saturate : ∀ v ∈ vectors_parallel_saturate, v.holds = true := by decide +kernel

/-- V42 of spec/95_test_vectors.md. -/
def vectors_multiply_divide : List Vec := [
  ⟨0xE0000291, false, [(1, 0x10001), (2, 0x10001)], [(0, 0x20001)], [false, false, true, false, false], 9, 9⟩,
  ⟨0xE0100291, false, [(1, 0xFFFFFFFF), (2, 0x2)], [(0, 0xFFFFFFFE)], [true, false, true, false, false], 9, 9⟩,
  ⟨0xE0203291, false, [(1, 0x3), (2, 0x5), (3, 0xFFFFFFFF)], [(0, 0xE)], [false, false, true, false, false], 9, 9⟩,
  ⟨0xFB013012, true, [(1, 0x3), (2, 0x5), (3, 0xA)], [(0, 0xFFFFFFFB)], [false, false, true, false, false], 9, 9⟩,
  ⟨0xE0810392, false, [(2, 0xFFFFFFFF), (3, 0xFFFFFFFF)], [(0, 0x1), (1, 0xFFFFFFFE)], [false, false, true, false, false], 9, 9⟩,
  ⟨0xFBE20103, true, [(2, 0xFFFFFFFF), (3, 0x2), (1, 0x1), (0, 0xFFFFFFFF)], [(0, 0xFFFFFFFD), (1, 0x3)], [false, false, true, false, false], 9, 9⟩,
  ⟨0xE0410392, false, [(0, 0xFFFFFFFF), (1, 0xFFFFFFFF), (2, 0xFFFFFFFF), (3, 0xFFFFFFFF)], [(0, 0xFFFFFFFF), (1, 0xFFFFFFFF)], [false, false, true, false, false], 9, 9⟩,
  ⟨0xFB820103, true, [(2, 0xFFFFFFFF), (3, 0x2)], [(0, 0xFFFFFFFE), (1, 0xFFFFFFFF)], [false, false, true, false, false], 9, 9⟩,
  ⟨0xE0E10392, false, [(2, 0x1), (3, 0x1), (1, 0x7FFFFFFF), (0, 0xFFFFFFFF)], [(0, 0x0), (1, 0x80000000)], [false, false, true, false, false], 9, 9⟩,
  ⟨0xFB11F002, true, [(1, 0x7FFF8000), (2, 0x2FFFF)], [(0, 0x8000)], [false, false, true, false, false], 9, 9⟩,
  ⟨0xE16002A1, false, [(1, 0x7FFF8000), (2, 0x2FFFF)], [(0, 0xFFFF8001)], [false, false, true, false, false], 9, 9⟩,
  ⟨0xFB11F012, true, [(1, 0x7FFF8000), (2, 0x2FFFF)], [(0, 0xFFFF0000)], [false, false, true, false, false], 9, 9⟩,
  ⟨0xE16002E1, false, [(1, 0x7FFF8000), (2, 0x2FFFF)], [(0, 0xFFFE)], [false, false, true, false, false], 9, 9⟩,
  ⟨0xFB31F012, true, [(1, 0x18000), (2, 0x7FFF0000)], [(0, 0xBFFE)], [false, false, true, false, false], 9, 9⟩,
  ⟨0xE1003281, false, [(1, 0x7FFF), (2, 0x7FFF), (3, 0x7FFFFFFF)], [(0, 0xBFFF0000)], [false, false, true, false, true], 9, 9⟩,
  ⟨0xFB21F002, true, [(1, 0x80008000), (2, 0x80008000)], [(0, 0x80000000)], [false, false, true, false, true], 9, 9⟩,
  ⟨0xE700F231, false, [(1, 0x20003), (2, 0x40005)], [(0, 0x16)], [false, false, true, false, false], 9, 9⟩,
  ⟨0xFB41F002, true, [(1, 0x20003), (2, 0x40005)], [(0, 0x7)], [false, false, true, false, false], 9, 9⟩,
  ⟨0xE750F211, false, [(1, 0x7FFFFFFF), (2, 0x7FFFFFFF)], [(0, 0x3FFFFFFF)], [false, false, true, false, false], 9, 9⟩,
  ⟨0xFB51F012, true, [(1, 0x18000), (2, 0x10000)], [(0, 0x2)], [false, false, true, false, false], 9, 9⟩,
  ⟨0xE75032D1, false, [(1, 0x1), (2, 0x1), (3, 0x0)], [(0, 0xFFFFFFFF)], [false, false, true, false, false], 9, 9⟩,
  ⟨0xFB91F0F2, true, [(1, 0x7), (2, 0xFFFFFFFE)], [(0, 0xFFFFFFFD)], [false, false, true, false, false], 9, 9⟩,
  ⟨0xE710F211, false, [(1, 0x80000000), (2, 0xFFFFFFFF)], [(0, 0x80000000)], [false, false, true, false, false], 9, 9⟩,
  ⟨0xFBB1F0F2, true, [(1, 0xFFFFFFFF), (2, 0x2)], [(0, 0x7FFFFFFF)], [false, false, true, false, false], 9, 9⟩]

theorem test_vectors_multiply_divide : ∀ v ∈ vectors_multiply_divide, v.holds = true := by decide +kernel

/-- V43 of spec/95_test_vectors.md. -/
def vectors_move_shift_compare_logical : List Vec := [
  ⟨0xF06F0000, true, [], [(0, 0xFFFFFFFF)], [false, false, true, false, false], 9, 9⟩,
  ⟨0xE1F00201, false, [(1, 0x12345678)], [(0, 0xDCBA987F)], [true, false, true, false, false], 9, 9⟩,
  ⟨0xF6CA30CD, true, [(0, 0x12345678)], [(0, 0xABCD5678)], [false, false, true, false, false], 9, 9⟩,
  ⟨0xE30F0FFF, false, [(0, 0x12345678)], [(0, 0xFFFF)], [false, false, true, false, false], 9, 9⟩,
  ⟨0xEA5F0031, true, [(1, 0x1)], [(0, 0x80000000)], [true, false, true, false, false], 9, 9⟩,
  ⟨0xE16F0F11, false, [(1, 0x0)], [(0, 0x20)], [false, false, true, false, false], 9, 9⟩,
  ⟨0xFAB1F081, true, [(1, 0x80000000)], [(0, 0x0)], [false, false, true, false, false], 9, 9⟩,
  ⟨0xE16F0F11, false, [(1, 0x10000)], [(0, 0xF)], [false, false, true, false, false], 9, 9⟩,
  ⟨0xEBB10F02, true, [(1, 0x5), (2, 0x5)], [], [false, true, true, false, false], 9, 9⟩,
  ⟨0xE1710002, false, [(1, 0xFFFFFFFF), (2, 0x1)], [], [false, true, true, false, false], 9, 9⟩,
  ⟨0xE1310002, false, [(1, 0x80000000), (2, 0x80000000)], [], [false, true, true, false, false], 9, 9⟩,
  ⟨0xEA010002, true, [(1, 0xF0F0F0F0), (2, 0xFF00FF00)], [(0, 0xF000F000)], [false, false, true, false, false], 9, 9⟩,
  ⟨0xE0210002, false, [(1, 0xF0F0F0F0), (2, 0xFF00FF00)], [(0, 0xFF00FF0)], [false, false, true, false, false], 9, 9⟩,
  ⟨0xEA410002, true, [(1, 0xF0F0F0F0), (2, 0xFF00FF00)], [(0, 0xFFF0FFF0)], [false, false, true, false, false], 9, 9⟩,
  ⟨0xE1C10002, false, [(1, 0xF0F0F0F0), (2, 0xFF00FF00)], [(0, 0xF000F0)], [false, false, true, false, false], 9, 9⟩,
  ⟨0xEA610002, true, [(1, 0xF0F0F0F0), (2, 0xFF00FF00)], [(0, 0xF0FFF0FF)], [false, false, true, false, false], 9, 9⟩]

theorem test_vectors_move_shift_compare_logical : ∀ v ∈ vectors_move_shift_compare_logical, v.holds = true := by decide +kernel

/-- V44 of spec/95_test_vectors.md. -/
def vectors_bit_fields : List Vec := [
  ⟨0xF36F200F, true, [(0, 0xFFFFFFFF)], [(0, 0xFFFF00FF)], [false, false, true, false, false], 9, 9⟩,
  ⟨0xE7CB0211, false, [(0, 0xFFFFFFFF), (1, 0x12345600)], [(0, 0xFFFFF00F)], [false, false, true, false, false], 9, 9⟩,
  ⟨0xF36170DF, true, [(0, 0x0), (1, 0x1)], [(0, 0x80000000)], [false, false, true, false, false], 9, 9⟩,
  ⟨0xE7A70251, false, [(1, 0xF80)], [(0, 0xFFFFFFF8)], [false, false, true, false, false], 9, 9⟩,
  ⟨0xF3C11007, true, [(1, 0xF80)], [(0, 0xF8)], [false, false, true, false, false], 9, 9⟩,
  ⟨0xE6810812, false, [(1, 0x11112222), (2, 0x33334444)], [(0, 0x44442222)], [false, false, true, false, false], 9, 9⟩,
  ⟨0xEAC10022, true, [(1, 0x11112222), (2, 0x80000000)], [(0, 0x1111FFFF)], [false, false, true, false, false], 9, 9⟩,
  ⟨0xE6BF0071, false, [(1, 0x80C0E0F0)], [(0, 0xFFFFE0F0)], [false, false, true, false, false], 9, 9⟩,
  ⟨0xFA4FF091, true, [(1, 0x80C0E0F0)], [(0, 0xFFFFFFE0)], [false, false, true, false, false], 9, 9⟩,
  ⟨0xE6EF0C71, false, [(1, 0x80C0E0F0)], [(0, 0x80)], [false, false, true, false, false], 9, 9⟩,
  ⟨0xFA1FF0A1, true, [(1, 0x80C0E0F0)], [(0, 0x80C0)], [false, false, true, false, false], 9, 9⟩,
  ⟨0xE68F0471, false, [(1, 0x80C0E0F0)], [(0, 0xFF80FFE0)], [false, false, true, false, false], 9, 9⟩,
  ⟨0xFA3FF081, true, [(1, 0x80C0E0F0)], [(0, 0xC000F0)], [false, false, true, false, false], 9, 9⟩,
  ⟨0xE6A20071, false, [(1, 0x80C0E0F0), (2, 0x100)], [(0, 0xF0)], [false, false, true, false, false], 9, 9⟩,
  ⟨0xFA12F091, true, [(1, 0x80C0E0F0), (2, 0xFFFF0000)], [(0, 0xFFFFC0E0)], [false, false, true, false, false], 9, 9⟩,
  ⟨0xE6820071, false, [(1, 0x80C0E0F0), (2, 0x10001)], [(0, 0xFFC1FFF1)], [false, false, true, false, false], 9, 9⟩,
  ⟨0xFA32F0A1, true, [(1, 0x80C0E0F0), (2, 0xFFFF00FF)], [(0, 0xEF01BF)], [false, false, true, false, false], 9, 9⟩,
  ⟨0xE6BF0F31, false, [(1, 0x11223380)], [(0, 0x80332211)], [false, false, true, false, false], 9, 9⟩,
  ⟨0xFA91F091, true, [(1, 0x11223380)], [(0, 0x22118033)], [false, false, true, false, false], 9, 9⟩,
  ⟨0xE6FF0FB1, false, [(1, 0x11223380)], [(0, 0xFFFF8033)], [false, false, true, false, false], 9, 9⟩,
  ⟨0xFA91F0A1, true, [(1, 0x1)], [(0, 0x80000000)], [false, false, true, false, false], 9, 9⟩,
  ⟨0xE6810FB2, false, [(1, 0x11223344), (2, 0xAABBCCDD)], [(0, 0xAA22CC44)], [false, false, true, false, false], 5, 5⟩]

theorem test_vectors_bit_fields : ∀ v ∈ vectors_bit_fields, v.holds = true := by decide +kernel

/-! ### Branches, status, loads and stores: V45 to V47 of spec/95_test_vectors.md -/

/-- V45-1: a branch to itself. -/
theorem test_b_to_self : nextIs (exec (.b (.a32 .al 0xFFFFFE#24)) arm) (fun t => t.pc == 0x8000#32) = true := by
  decide +kernel

/-- V45-2, V45-3: BNE to 0x8100 in Thumb state, not taken and taken. -/
theorem test_bne_thumb :
    nextIs (exec (.b (.t3 .ne false false false 0#6 0x7E#11)) (flags thumb true false)) (fun t => t.pc == 0x8004#32) = true ∧
    nextIs (exec (.b (.t3 .ne false false false 0#6 0x7E#11)) (flags thumb false false)) (fun t => t.pc == 0x8100#32) = true
    := by decide +kernel

/-- V45-4: BL to 0x7F00 in both instruction sets; the link register of Thumb state has bit 0 set. -/
theorem test_bl :
    nextIs (exec (.bl (.a32 .al 0xFFFFBE#24)) arm) (fun t => t.pc == 0x7F00#32 && t.reg 14#4 == 0x8004#32) = true ∧
    nextIs ((decodeCode (.t32 0xF7FFFF7E#32)).elim (.refused .notInScope) (fun i => exec i thumb))
      (fun t => t.pc == 0x7F00#32 && t.reg 14#4 == 0x8005#32 && t.cpsr.t) = true := by decide +kernel

/-- V45-5: BLX to a label as far forward as it goes. -/
theorem test_blx_label : nextIs (exec (.blxLabel (.a32 true 0x7FFFFF#24)) arm)
    (fun t => t.pc == 0x02008006#32 && t.reg 14#4 == 0x8004#32 && t.cpsr.t) = true := by decide +kernel

/-- V45-6, V45-7: BX to an odd address and to an address that is no ARM target. -/
theorem test_bx :
    nextIs (exec (.bx al 2#4) (regs arm [(2, 0x9001)])) (fun t => t.pc == 0x9000#32 && t.cpsr.t) = true ∧
    refusedIs (exec (.bx .thumb 2#4) (regs thumb [(2, 0x9002)])) .misalignedBranchTarget = true := by decide +kernel

/-- V45-8: BLX to a register from Thumb state. -/
theorem test_blx_register : nextIs (exec (.blxReg .thumb 2#4) { regs thumb [(2, 0x9000)] with pc := 0x8002#32 })
    (fun t => t.pc == 0x9000#32 && t.reg 14#4 == 0x8005#32 && !t.cpsr.t) = true := by decide +kernel

/-- BXJ acts as BX where Jazelle is not available (R427). -/
theorem test_bxj : nextIs (exec (.bxj al 2#4) (regs arm [(2, 0x9000)])) (fun t => t.pc == 0x9000#32) = true := by
  decide +kernel

/-- V45-9: CBZ taken and not, and CBNZ the other way round. -/
theorem test_cbz :
    nextIs (exec (.cbz false 1#5 0#3) thumb) (fun t => t.pc == 0x8006#32) = true ∧
    nextIs (exec (.cbz false 1#5 0#3) (regs thumb [(0, 1)])) (fun t => t.pc == 0x8002#32) = true ∧
    nextIs (exec (.cbnz false 1#5 0#3) (regs thumb [(0, 1)])) (fun t => t.pc == 0x8006#32) = true := by decide +kernel

/-- V45-10, V45-11: the table branches. -/
theorem test_table_branch :
    nextIs (exec (.tbb 15#4 1#4) (regs (byte thumb 0x8006 0xFF) [(1, 2)])) (fun t => t.pc == 0x8202#32) = true ∧
    nextIs (exec (.tbh 0#4 1#4) (regs (byte thumb 0x9006 0x10) [(0, 0x9000), (1, 3)])) (fun t => t.pc == 0x8024#32) = true
    := by decide +kernel

/-- V45-12: ITTE GE and the IT states after it. -/
theorem test_it :
    nextIs (exec (.it 10#4 6#4) thumb) (fun t => t.cpsr.it == 0xA6#8 && t.pc == 0x8002#32) = true ∧
    itAdvance 0xA6#8 = 0xAC#8 ∧ itAdvance 0xAC#8 = 0xB8#8 ∧ itAdvance 0xB8#8 = 0#8 := by decide +kernel

/-- V46-1: MRS of the CPSR hides T. -/
theorem test_mrs : nextIs (exec (.mrs .thumb false 0#4) (flags thumb true true)) (fun t => t.reg 0#4 == 0x600001D3#32) = true
    := by decide +kernel

/-- V46-2, V46-3: MSR in User mode writes the flags, and neither masks nor mode. -/
theorem test_msr_user :
    nextIs (exec (.msrReg al false 8#4 1#4) (regs (inMode arm .usr) [(1, 0xF80000DF)]))
      (fun t => t.cpsr.n && t.cpsr.z && t.cpsr.c && t.cpsr.v && t.cpsr.q && t.cpsr.mode == .usr) = true ∧
    nextIs (exec (.msrReg al false 1#4 1#4) (regs (inMode arm .usr) [(1, 0x0000001F)]))
      (fun t => t.cpsr == (inMode arm .usr).cpsr) = true := by decide +kernel

/-- V46-4, V46-5: MSR of the control byte to System mode, and to a number that is no mode. -/
theorem test_msr_control :
    nextIs (exec (.msrReg al false 1#4 1#4) (regs arm [(1, 0x1F)]))
      (fun t => t.cpsr.mode == .sys && !t.cpsr.i && !t.cpsr.f) = true ∧
    refusedIs (exec (.msrImm .al false 1#4 0#4 0x16#8) arm) .badMode = true := by decide +kernel

/-- V46-6 to V46-8: CPSID, CPSIE with a mode, CPS. -/
theorem test_cps :
    nextIs (exec (.cpsid false false false true true 0#5) { arm with cpsr := { arm.cpsr with i := false, f := false } })
      (fun t => t.cpsr.i && t.cpsr.f && t.cpsr.mode == .svc) = true ∧
    nextIs (exec (.cpsie true true false true false 31#5) thumb)
      (fun t => !t.cpsr.i && t.cpsr.f && t.cpsr.mode == .sys) = true ∧
    nextIs (exec (.cps false 16#5) arm) (fun t => t.cpsr.mode == .usr) = true := by decide +kernel

/-- V46-9: SETEND BE. -/
theorem test_setend : nextIs (exec (.setend true true) thumb) (fun t => t.cpsr.e && t.pc == 0x8002#32) = true := by
  decide +kernel

/-- The memory of V47. -/
def v47 : State := regs ([(0x1000, 0x80), (0x1001, 0x91), (0x1002, 0xA2), (0x1003, 0xB3), (0x1004, 0x04), (0x1005, 0x15),
  (0x1006, 0x26), (0x1007, 0x37)].foldl (fun s x => byte s x.1 x.2) arm) [(0, 0xDEADBEEF), (1, 0x1000), (2, 4)]

/-- V47 in big-endian data order. -/
def v47be : State := { v47 with cpsr := { v47.cpsr with e := true } }

/-- V47-1 to V47-4: the addressing forms and both byte orders. -/
theorem test_ldr :
    nextIs (exec (.ldr al 0#4 (.aImm .offset true 1#4 4#12)) v47) (fun t => t.reg 0#4 == 0x37261504#32) = true ∧
    nextIs (exec (.ldr al 0#4 (.aImm .pre true 1#4 4#12)) v47be)
      (fun t => t.reg 0#4 == 0x04152637#32 && t.reg 1#4 == 0x1004#32) = true ∧
    nextIs (exec (.ldr al 0#4 (.aImm .post true 1#4 4#12)) v47)
      (fun t => t.reg 0#4 == 0xB3A29180#32 && t.reg 1#4 == 0x1004#32) = true ∧
    nextIs (exec (.ldr al 0#4 (.aReg .offset true 1#4 2#4 .lsl 0#5)) v47be) (fun t => t.reg 0#4 == 0x04152637#32) = true
    := by decide +kernel

/-- V47-5, V47-8: misaligned accesses. -/
theorem test_ldr_misaligned :
    faultIs (exec (.ldr al 0#4 (.aImm .offset true 1#4 2#12)) v47) (.exception (.dataAbort .alignment 0x1002#32 false) 0x8000#32) = true ∧
    faultIs (exec (.ldrh al 0#4 (.aImm8 .offset true 1#4 1#8)) v47) (.exception (.dataAbort .alignment 0x1001#32 false) 0x8000#32) = true
    := by decide +kernel

/-- V47-6, V47-7: LDRB and LDRH; the sign extensions of R482 and R484. -/
theorem test_ldr_narrow :
    nextIs (exec (.ldrb al 0#4 (.aImm .offset true 1#4 3#12)) v47) (fun t => t.reg 0#4 == 0xB3#32) = true ∧
    nextIs (exec (.ldrh al 0#4 (.aImm8 .offset true 1#4 2#8)) v47be) (fun t => t.reg 0#4 == 0xA2B3#32) = true ∧
    nextIs (exec (.ldrsb al 0#4 (.aImm8 .offset true 1#4 3#8)) v47) (fun t => t.reg 0#4 == 0xFFFFFFB3#32) = true ∧
    nextIs (exec (.ldrsh al 0#4 (.aImm8 .offset true 1#4 2#8)) v47) (fun t => t.reg 0#4 == 0xFFFFB3A2#32) = true := by
  decide +kernel

/-- V47-9 to V47-11: the stores. -/
theorem test_str :
    nextIs (exec (.str al 0#4 (.aImm .offset true 1#4 4#12)) v47be)
      (fun t => t.byteAt 0x1004#32 == 0xDE#8 && t.byteAt 0x1007#32 == 0xEF#8 && t.byteAt 0x1003#32 == 0xB3#8) = true ∧
    nextIs (exec (.strb al 0#4 (.aImm .pre false 1#4 1#12)) (regs v47 [(1, 0x1001)]))
      (fun t => t.byteAt 0x1000#32 == 0xEF#8 && t.reg 1#4 == 0x1000#32 && t.byteAt 0x1001#32 == 0x91#8) = true ∧
    nextIs (exec (.strh al 0#4 (.aImm8 .post true 1#4 2#8)) v47)
      (fun t => t.byteAt 0x1000#32 == 0xEF#8 && t.byteAt 0x1001#32 == 0xBE#8 && t.reg 1#4 == 0x1002#32) = true := by
  decide +kernel

/-- V47-12, and a store to code (R94). -/
theorem test_load_store_refused :
    refusedIs (exec (.ldr al 1#4 (.aImm .post true 1#4 4#12)) v47) .baseIsDestination = true ∧
    faultIs (exec (.str al 0#4 (.aImm .offset true 2#4 0#12)) (regs v47 [(2, 0x8000)]))
      (.exception (.dataAbort .permission 0x8000#32 true) 0x8000#32) = true := by decide +kernel

/-- The T forms use User rights (R488, R493): a privileged-only byte aborts. -/
theorem test_user_access :
    let s := regs (cfgd arm fun c => { c with memMap := [⟨0, 0xFFFFFFFF, ⟨true, true, true⟩, ⟨false, false, true⟩⟩] }) [(1, 0x1000)]
    nextIs (exec (.ldr al 0#4 (.aImm .post true 1#4 4#12)) s) (fun t => t.reg 1#4 == 0x1004#32) = true ∧
    faultIs (exec (.ldrt al 0#4 (.aImm true 1#4 4#12)) s) (.exception (.dataAbort .permission 0x1000#32 false) 0x8000#32) = true ∧
    faultIs (exec (.strbt al 0#4 (.aImm true 1#4 4#12)) s) (.exception (.dataAbort .permission 0x1000#32 true) 0x8000#32) = true
    := by decide +kernel

/-- The exception return of R214 in both encodings, and its refusals. -/
theorem test_exception_return :
    let s := { regs (inMode arm .irq) [(14, 0x9004)] with spsrIrq := 0x600000D0#32 }
    nextIs (exec (.sub al true 15#4 14#4 (.immA 0#4 4#8)) s)
      (fun t => t.pc == 0x9000#32 && t.cpsr.mode == .usr && t.cpsr.z && t.cpsr.c && t.cpsr.i) = true ∧
    nextIs (exec (.subsPcLr 4#8) { s with cpsr := { s.cpsr with t := true } }) (fun t => t.pc == 0x9000#32 && !t.cpsr.t) = true ∧
    refusedIs (exec (.sub al true 15#4 14#4 (.immA 0#4 4#8)) (inMode arm .sys)) .noSpsr = true := by decide +kernel

/-- MIA, MAR and MRA (R60, R313, R345, R346). -/
theorem test_accumulator :
    nextIs (exec (.mia .al 0#4 1#4) (regs { arm with ac := 5#40 } [(0, 0xFFFFFFFF), (1, 7)])) (fun t => t.ac == 0xFFFFFFFFFE#40) = true ∧
    nextIs (exec (.mra .al 0#4 1#4) { arm with ac := 0x8012345678#40 })
      (fun t => t.reg 0#4 == 0x12345678#32 && t.reg 1#4 == 0xFFFFFF80#32) = true ∧
    nextIs (exec (.mar .al 0#4 1#4) (regs arm [(0, 0x12345678), (1, 0xFFFFFF80)])) (fun t => t.ac == 0x8012345678#40) = true := by
  decide +kernel

/-! ### For each statement with hypotheses, a state and operands that meet them -/

/-- An instruction executes with allowed operands. -/
def ready (feature : Bool) (e : Enc) (s : State) (allowed : Bool) : Bool := feature && runs e true s && allowed

/-- A processor of architecture v4 without Thumb. -/
def v4 : State := cfgd arm fun c => { c with haveThumb := false, haveV5 := false, haveV5E := false, haveV5J := false, haveV6 := false, haveV6K := false, haveT2 := false, haveV7 := false, haveRM := false, haveXS := false }

theorem test_hyp_ShiftWithCarry : (∀ n ∈ [1, 31, 32, 33, 255], 0 < n) ∧
    shiftC 0x80000001#32 .lsl 1 false = (2#32, true) ∧ shiftC 0x80000001#32 .lsl 32 false = (0#32, true) ∧
    shiftC 0x80000001#32 .lsr 33 true = (0#32, false) ∧ shiftC 0x80000001#32 .asr 255 false = (0xFFFFFFFF#32, true) ∧
    shiftC 0x80000001#32 .ror 32 false = (0x80000001#32, true) := by decide

theorem test_hyp_Saturation : (1 ≤ 8 ∧ 1 ≤ 1) ∧ signedSatQ 128 8 = (127, true) ∧ signedSatQ 127 8 = (127, false) ∧
    signedSatQ (-129) 8 = (-128, true) ∧ unsignedSatQ 256 8 = (255, true) ∧ unsignedSatQ (-1) 8 = (0, true) ∧
    unsignedSatQ 1 0 = (0, true) := by decide

theorem test_hyp_ConditionTable : (0 < 7 ∧ 6 < 7 ∧ 0 < 15 ∧ 14 < 15) ∧ condOfBits 14#4 = some .al ∧
    condOfBits 15#4 = none := by decide

theorem test_hyp_Operand2Values :
    op2 arm (.immT 0x0AB#12) = .ok (0xAB#32, false) ∧ op2 arm (.immT 0x1AB#12) = .ok (0x00AB00AB#32, false) ∧
    op2 arm (.immT 0x2AB#12) = .ok (0xAB00AB00#32, false) ∧ op2 arm (.immT 0x3AB#12) = .ok (0xABABABAB#32, false) ∧
    op2 arm (.immT 0x100#12) = .error (.refuse .unpredictableImmediate) ∧
    op2 arm (.immT 0x400#12) = .ok (0x80000000#32, true) ∧ op2 arm (.immT 0xFFF#12) = .ok (0x1FE#32, false) ∧
    op2 arm (.immA 4#4 0xFF#8) = .ok (0xFF000000#32, true) := by decide

theorem test_hyp_RegisterBanks : (14#4 ≠ 15#4 ∧ 14#4 ≠ 13#4) ∧ (arm.setReg 14#4 7#32).reg 14#4 = 7#32 ∧
    physReg .fiq 12#4 ≠ physReg .irq 12#4 ∧ physReg .fiq 7#4 = physReg .irq 7#4 ∧ physReg .usr 13#4 = physReg .sys 13#4 ∧
    some PReg.r0 ≠ physReg .svc 14#4 := by decide

theorem test_hyp_StoredBytesReadBack : Memory.wf v47.mem = true ∧
    (v47.storeValue 0xFFFFFFFE#32 .word 0x12345678#32).byteAt 1#32 = 0x12#8 := by decide

/-- A byte of an access that faults is the lowest if no faulting byte lies below it. -/
theorem lowest_byte (s : State) (priv : Bool) (right : Rights → Bool) (a b : Word) (w : Width)
    (hb : (∃ k < w.bytes, b = a + BitVec.ofNat 32 k) ∧ lacks s.cfg priv right b = true)
    (hl : ∀ k < w.bytes, lacks s.cfg priv right (a + BitVec.ofNat 32 k) = true →
      b.toNat ≤ (a + BitVec.ofNat 32 k).toNat) :
    Lowest (fun x => (∃ k < w.bytes, x = a + BitVec.ofNat 32 k) ∧ lacks s.cfg priv right x = true) b :=
  ⟨hb, fun _ ⟨⟨k, hk, e⟩, h⟩ => e ▸ hl k hk (e ▸ h)⟩

/-- Data up to 0xFFF, two bytes of code, nothing above; misaligned accesses are made. -/
def edge : State :=
  cfgd arm fun c => { c with unalignedPolicy := .v6, memMap := [Region.data 0 0xFFF, Region.code 0x1000 0x1001] }

theorem test_hyp_AccessChecks :
    allowsAccess arm true Rights.read 0x1000#32 .word = true ∧ allowsAccess arm true Rights.write 0x1000#32 .word = true ∧
    (0x1001#32).toNat % Width.word.bytes ≠ 0 ∧ arm.cfg.unalignedPolicy = .fault ∧ edge.cfg.unalignedPolicy = .v6 ∧
    Lowest (fun x => (∃ k < Width.word.bytes, x = 0xFFF#32 + BitVec.ofNat 32 k) ∧ lacks edge.cfg true Rights.read x = true)
      0x1002#32 ∧
    Lowest (fun x => (∃ k < Width.word.bytes, x = 0xFFF#32 + BitVec.ofNat 32 k) ∧ lacks edge.cfg true Rights.write x = true)
      0x1000#32 := by
  refine ⟨by decide, by decide, by decide, by decide, by decide, ?_, ?_⟩ <;>
    exact lowest_byte edge true _ _ _ .word (by decide) (by decide)

/-- R522: the lowest byte that faults, also where the access wraps; kind translation if any byte is unmapped. -/
theorem test_abort_address :
    memRead edge true 0xFFF#32 .word = .error (.raise (.dataAbort .translation 0x1002#32 false)) ∧
    memWrite edge true 0xFFF#32 .word 0#32 = .error (.raise (.dataAbort .translation 0x1000#32 true)) ∧
    memWrite edge true 0xFFE#32 .word 0#32 = .error (.raise (.dataAbort .permission 0x1000#32 true)) ∧
    memRead (cfgd edge fun c => { c with memMap := [] }) true 0xFFFFFFFE#32 .word =
      .error (.raise (.dataAbort .translation 0#32 false)) := by decide +kernel

/-- R206, R113 item 4: ADR may write SP, as the wide ADD may. -/
theorem test_adr_sp : nextIs (exec (.adr true 13#4 8#12) { thumb with pc := 0x8002#32 })
    (fun t => t.reg 13#4 == 0x800C#32 && t.pc == 0x8006#32) = true := by decide +kernel

theorem test_hyp_AddressingForms : 1#4 ≠ 15#4 ∧ op2 v47 (.reg 2#4 .lsl 1#5) = .ok (8#32, false) := by decide

/-- A32, T32 and T16 instructions at 0x8000. -/
theorem test_hyp_StepRunsDecoded :
    let a := arm.withFetchWord 32 0xE2810001
    let b := thumb.withFetchWord 32 0xF1010001
    let c := thumb.withFetchWord 16 0xBF0C
    (∀ x ∈ [(a, Code.a32 0xE2810001#32), (b, .t32 0xF1010001#32), (c, .t16 0xBF0C#16)],
      x.1.pc ≠ x.1.cfg.haltAddress ∧ pendingInterrupt x.1 = none ∧ x.1.cpsr.j = false ∧
      (∀ k < x.2.size, canFetch x.1 (x.1.pc + BitVec.ofNat 32 k) = true) ∧
      (∀ k < x.2.size, (x.2.bytes false)[k]? = some (x.1.byteAt (x.1.pc + BitVec.ofNat 32 k))) ∧
      readCode x.1.cpsr.t false (x.2.bytes false) = some (x.2, []) ∧ x.1.pc.toNat + x.2.size < 2 ^ 32 ∧
      (decodeCode x.2).isSome = true) := by decide +kernel

/-- A state at whose first step events are asserted, with the masks F, I, A. -/
def asserted (ev : AsyncEvents) (m : TrapModel) (f i a : Bool) : State :=
  let s := cfgd arm fun c => { c with interrupts := [ev], trapModel := m }
  { s with cpsr := { s.cpsr with f := f, i := i, a := a } }

theorem test_hyp_InterruptPriority :
    faultIs (step (asserted ⟨true, true, true⟩ .fault false false false)) (.exception .fiq 0x8000#32) = true ∧
    nextIs (step (asserted ⟨true, true, true⟩ .classic true false true)) (fun t => t.pc == 0xFFFF0018#32 && t.cpsr.mode == .irq) = true ∧
    faultIs (step (asserted ⟨true, true, true⟩ .fault true true false)) (.exception .asyncAbort 0x8000#32) = true ∧
    pendingInterrupt (asserted ⟨true, true, true⟩ .fault true true true) = none ∧
    pendingInterrupt (asserted ⟨false, false, false⟩ .fault false false false) = none := by decide +kernel

theorem test_hyp_StepWithoutInstruction :
    faultIs (step { arm with pc := 0xFFF0#32 }) .runEnded = true ∧
    refusedIs (step { arm with cpsr := { arm.cpsr with j := true } }) .jazelleState = true ∧
    faultIs (step { arm with pc := 0x1000#32 }) (.exception (.prefetchAbort 0x1000#32) 0x1000#32) = true ∧
    nextIs (step { cfgd thumb (fun c => { c with trapModel := .classic }) with pc := 0x1000#32 })
      (fun t => t.pc == 0xFFFF000C#32 && t.reg 14#4 == 0x1004#32 && !t.cpsr.t && t.spsrAbt == 0x000001F3#32) = true ∧
    faultIs (step { byte thumb 0xFFFF 0xF0 with pc := 0xFFFE#32 }) (.exception (.prefetchAbort 0xFFFE#32) 0xFFFE#32) = true ∧
    refusedIs (step { cfgd arm (fun c => { c with memMap := [Region.code 0 0xFFFFFFFF] }) with pc := 0xFFFFFFFC#32 }) .pcWrap = true ∧
    refusedIs (step (arm.withFetchWord 32 0xEF000000)) .notInScope = true := by decide +kernel

theorem test_hyp_FailedConditionSkips : fullConfig arm.cfg = true ∧ notInIt (.bx .thumb 0#4) = false ∧
    idles (.a32 .eq) true arm = true ∧ idles .thumb true (inIt thumb 0x08#8) = true ∧ endsBlock (inIt thumb 0x08#8) = true ∧
    nextIs (exec (.bx .thumb 0#4) (inIt thumb 0x08#8)) (fun t => t.pc == 0x8002#32 && t.cpsr.it == 0#8) = true ∧
    nextIs (exec (.udiv (.a32 .eq) 0#4 1#4 2#4) arm) (fun t => t.pc == 0x8004#32) = true := by decide +kernel

theorem test_hyp_PlaceAndStateRefusals :
    refusedIs (exec (.clz al 0#4 1#4) thumb) .notAvailable = true ∧
    refusedIs (exec (.movw .thumb 0#4 1#16) (cfgd thumb fun c => { c with haveT2 := false })) .notAvailable = true ∧
    (fullConfig thumb.cfg = true ∧ lastInIt (.bx .thumb 0#4) = true ∧ notInIt (.bx .thumb 0#4) = false ∧
      endsBlock (inIt thumb 0x04#8) = false) ∧
    refusedIs (exec (.bx .thumb 0#4) (inIt thumb 0x04#8)) .branchInsideIt = true ∧
    refusedIs (exec (.cbz false 0#5 0#3) (inIt thumb 0x08#8)) .notAllowedInIt = true ∧
    refusedIs (exec (.it 0#4 8#4) (inIt thumb 0x08#8)) .itInsideIt = true := by decide +kernel

/-- ArithmeticResults, CompareResults, LogicalResults, MoveResults: both instruction sets, an operand that is refused, an immediate that has no value. -/
theorem test_hyp_data_processing :
    ready true al arm (dpOk al [0#4] [15#4] (.reg 2#4 .lsl 3#5) false false false) = true ∧
    ready thumb.cfg.haveT2 .thumb thumb (dpOk .thumb [0#4] [13#4] (.immT 1#12) false true false) = true ∧
    ready true .thumb (inIt thumb 0x18#8) (dpOk .thumb [0#4] [1#4] (.immT 1#12) false false false) = true ∧
    dpOk al [15#4] [1#4] (.immA 0#4 1#8) false false false = false ∧
    dpOk .thumb [0#4] [13#4] (.immT 1#12) false false false = false ∧
    op2 thumb (.immT 0x100#12) = .error (.refuse .unpredictableImmediate) ∧
    writesPc (.sub al true 0#4 14#4 (.immA 0#4 4#8)) = false ∧
    refusedIs (exec (.add al false 15#4 1#4 (.immA 0#4 1#8)) arm) .pcAsDestination = true ∧
    refusedIs (exec (.tst .thumb 1#4 (.immT 0x100#12)) thumb) .unpredictableImmediate = true ∧
    refusedIs (exec (.orn false 0#4 1#4 (.immT 1#12)) (cfgd thumb fun c => { c with haveT2 := false })) .notAvailable = true := by
  decide +kernel

/-- ShiftByRegisterResults, WideImmediateResults, SaturatingAddResults, ParallelHalfwordResults, ParallelByteResults,
DifferenceAndSaturateResults, HalfwordMultiplyResults, DualMultiplyResults, TopWordMultiplyResults, BitOrderResults,
BitFieldResults, PackAndSelectResults, ExtendResults: a processor with the feature and one without, operands allowed and not. -/
theorem test_hyp_plain :
    ready arm.cfg.haveV6 al arm (plainOk al [0#4, 1#4, 13#4]) = true ∧
    ready (thumb.cfg.haveV6 && thumb.cfg.haveT2) .thumb thumb (plainOk .thumb [0#4, 1#4, 2#4]) = true ∧
    ready (thumb.cfg.haveV5E && thumb.cfg.haveT2) .thumb thumb (plainOk .thumb [12#4]) = true ∧
    ready arm.cfg.haveRM al arm (plainOk al [0#4, 1#4, 2#4]) = true ∧
    plainOk al [0#4, 15#4] = false ∧ plainOk .thumb [13#4] = false ∧ v4.cfg.haveV5E = false ∧ v4.cfg.haveV6 = false ∧
    refusedIs (exec (.qadd al 0#4 1#4 2#4) v4) .notAvailable = true ∧
    refusedIs (exec (.sadd16 al 0#4 15#4 2#4) arm) .pcOperand = true ∧
    refusedIs (exec (.uxtb .thumb 0#4 13#4 0#2) thumb) .spOperand = true := by decide +kernel

theorem test_hyp_MultiplyResults : (true = true → arm.cfg.haveV5 = true) ∧
    ready true al arm (plainOk al [0#4, 0#4, 2#4] && (arm.cfg.haveV6 || (0#4 : Reg) != 0#4)) = true ∧
    (false = true → v4.cfg.haveV5 = true) ∧ (v4.cfg.haveV6 || (0#4 : Reg) != 0#4) = false ∧
    refusedIs (exec (.mul al false 0#4 0#4 1#4) v4) .sameRegister = true := by decide +kernel

theorem test_hyp_MultiplyFlagsBeforeV5 : v4.cfg.haveV5 = false ∧ v4.cfg.haveV6 = false ∧ runs al true v4 = true ∧
    plainOk al [0#4, 1#4, 2#4] = true ∧ (0#4 : Reg) ≠ 1#4 ∧ (3#4 : Reg) ≠ 15#4 ∧ plainOk al [0#4, 3#4, 1#4, 2#4] = true ∧
    (0#4 : Reg) ≠ 3#4 ∧ (3#4 : Reg) ≠ 1#4 ∧
    nextIs (exec (.mul al true 0#4 1#4 2#4) v4) (fun t => t.draws == 1 && t.cpsr.z) = true ∧
    nextIs (exec (.smlal al true 0#4 3#4 1#4 2#4) v4) (fun t => t.draws == 2 && t.cpsr.z) = true := by decide +kernel

theorem test_hyp_LongMultiplyResults :
    ready true al arm (plainOk al [0#4, 3#4, 1#4, 2#4] && (0#4 : Reg) != 3#4 && (arm.cfg.haveV6 || true)) = true ∧
    refusedIs (exec (.umaal al 1#4 1#4 2#4 3#4) arm) .sameRegister = true := by decide +kernel

theorem test_hyp_AccumulatorResults : arm.cfg.haveXS = true ∧ runs al true arm = true ∧ (0#4 : Reg) ≠ 15#4 ∧
    (0#4 : Reg) ≠ 1#4 ∧ refusedIs (exec (.mia .al 0#4 15#4) arm) .pcOperand = true ∧
    refusedIs (exec (.mra .al 2#4 2#4) arm) .sameRegister = true ∧
    refusedIs (exec (.mar .al 0#4 1#4) v4) .notAvailable = true := by decide +kernel

theorem test_hyp_DivideResults :
    let zero := cfgd arm fun c => { c with divByZero := .zero }
    ((regs arm [(2, 7)]).reg 2#4).toNat ≠ 0 ∧ (arm.reg 2#4).toNat = 0 ∧ arm.cfg.divByZero = .fault ∧ arm.cfg.haveRM = true ∧
    nextIs (exec (.sdiv al 0#4 1#4 2#4) (regs arm [(1, 0xFFFFFFF9), (2, 2)])) (fun t => t.reg 0#4 == 0xFFFFFFFD#32) = true ∧
    nextIs (exec (.udiv al 0#4 1#4 2#4) (regs zero [(1, 7)])) (fun t => t.reg 0#4 == 0#32) = true ∧
    faultIs (exec (.sdiv al 0#4 1#4 2#4) arm) (.exception (.undefinedInstruction .divideByZero (some (.a32 0xE710F211#32))) 0x8000#32) = true
    := by decide +kernel

theorem test_hyp_BitOrderResults :
    (0#32).toNat < 2 ^ (32 - 32) ∧ ((1#32).toNat < 2 ^ (32 - 31) ∧ 2 ^ (31 - 31) ≤ (1#32).toNat) ∧
    ((0x80000000#32).toNat < 2 ^ (32 - 0) ∧ 2 ^ (31 - 0) ≤ (0x80000000#32).toNat) ∧
    (∀ i < 32, (0x80000000#32).getLsbD i = (1#32).getLsbD (31 - i)) ∧
    (∀ i < 4, byteNat 0x78563412#32 i = byteNat 0x12345678#32 (3 - i)) ∧
    (∀ i < 4, byteNat 0x34127856#32 i = byteNat 0x12345678#32 (i / 2 * 2 + 1 - i % 2)) ∧
    (0xFFFF8012#32).toInt = (BitVec.ofNat 16 (byteNat 0x1280#32 0 * 256 + byteNat 0x1280#32 1)).toInt := by decide

theorem test_hyp_BitFieldResults :
    ((0#5).toNat ≤ (0#5).toNat ∧ (31#5).toNat ≤ (31#5).toNat ∧ (7#5).toNat < (8#5).toNat) ∧
    ((0#5).toNat + (31#5).toNat ≤ 31 ∧ 31 < (1#5).toNat + (31#5).toNat) ∧
    (∀ i < 32, (0xFFFFFF00#32).getLsbD i = (!(decide (0 ≤ i) && decide (i ≤ 7)) && (0xFFFFFFFF#32).getLsbD i)) ∧
    (∀ i < 32, (0x000000A0#32).getLsbD i = if 4 ≤ i ∧ i ≤ 7 then (10#32).getLsbD (i - 4) else (0#32).getLsbD i) ∧
    (∀ i < 32, (0xFFFFFFFF#32).getLsbD i = (0x00000010#32).getLsbD (4 + min i 0)) ∧
    (∀ i < 32, (0x00000001#32).getLsbD i = (decide (i ≤ 0) && (0x00000010#32).getLsbD (4 + i))) ∧
    refusedIs (exec (.bfc al 0#4 8#5 7#5) arm) .unpredictableBitField = true ∧
    refusedIs (exec (.ubfx al 0#4 1#4 1#5 31#5) arm) .unpredictableBitField = true := by decide +kernel

theorem test_hyp_PackAndSelectResults :
    let s := { arm with cpsr := { arm.cpsr with ge := 5#4 } }
    ∀ i < 4, byteNat 0x22114433#32 i = if s.cpsr.ge.getLsbD i then byteNat 0x99119933#32 i else byteNat 0x22994499#32 i := by
  decide

theorem test_hyp_ItResults : thumb.cfg.haveT2 = true ∧ thumb.cpsr.t = true ∧ thumb.cpsr.it = 0#8 ∧ (10#4 : BitVec 4) ≠ 15#4 ∧
    refusedIs (exec (.it 0#4 8#4) (inIt thumb 1#8)) .itInsideIt = true ∧
    refusedIs (exec (.it 15#4 8#4) thumb) .unpredictableItCondition = true ∧
    refusedIs (exec (.it 14#4 12#4) thumb) .itAlWithElse = true ∧
    nextIs (exec (.it 14#4 8#4) thumb) (fun t => t.cpsr.it == 0xE8#8) = true ∧
    refusedIs (exec (.it 0#4 8#4) (cfgd thumb fun c => { c with haveT2 := false })) .notAvailable = true ∧
    (6#4 : BitVec 4) ≠ 0#4 ∧ (6#4 : BitVec 4).toNat % 2 ^ (4 - 2) ≠ 0 ∧ (6#4 : BitVec 4).toNat % 2 ^ (4 - 3) = 0 := by
  decide +kernel

theorem test_hyp_LabelBranchResults : pcAligned arm = true ∧ pcAligned thumb = true ∧ runs al true arm = true ∧
    runs .thumb false thumb = true ∧ endsBlock thumb = true ∧ endsBlock (inIt thumb 0x18#8) = true ∧
    (arm.cfg.haveV5 && arm.cfg.haveThumb) = true ∧ (v4.cfg.haveV5 && v4.cfg.haveThumb) = false ∧ thumb.cpsr.it = 0#8 := by decide

theorem test_hyp_RegisterBranchResults : runs al false arm = true ∧ runs .thumb false thumb = true ∧
    endsBlock (inIt thumb 0x18#8) = true ∧ plainOk .thumb [0#4] = true ∧ plainOk al [15#4] = false ∧
    v4.cfg.haveThumb = false ∧ v4.cfg.haveV5 = false ∧ v4.cfg.haveV5J = false ∧
    refusedIs (exec (.bxj al 0#4) (cfgd arm fun c => { c with jazelleAvailable := true })) .jazelleNotModelled = true ∧
    refusedIs (exec (.blxReg al 15#4) arm) .pcOperand = true := by decide +kernel

theorem test_hyp_CompareAndTableBranchResults : thumb.cfg.haveT2 = true ∧ thumb.cpsr.it = 0#8 ∧ pcAligned thumb = true ∧
    allowsAccess thumb true Rights.read 0x1001#32 .byte = true ∧
    allowsAccess thumb true Rights.read 0x1001#32 .half = false ∧
    allowsAccess (cfgd thumb fun c => { c with memMap := [] }) true Rights.read 0x1001#32 .byte = false ∧
    refusedIs (exec (.tbb 13#4 1#4) thumb) .spOperand = true := by decide +kernel

theorem test_hyp_ReadStatusResults : ready true al arm (plainOk al [0#4]) = true ∧ arm.spsr = some 0#32 ∧
    refusedIs (exec (.mrs al true 0#4) (inMode arm .usr)) .noSpsr = true ∧
    refusedIs (exec (.mrs al true 0#4) (inMode arm .sys)) .noSpsr = true := by decide +kernel

theorem test_hyp_WriteCpsrResults : ready true al arm (plainOk al [1#4]) = true ∧ ready true al (inMode arm .usr) true = true ∧
    (1#4 : BitVec 4).getLsbD 0 = true ∧ arm.cpsr.mode ≠ .usr ∧ Mode.ofBits 17#5 = some .fiq ∧ Mode.ofBits 22#5 = none ∧
    nextIs (exec (.msrReg al false 15#4 1#4) (regs arm [(1, 0xF80F03D1)])) (fun t => t.cpsr.toWord == 0xF80F03D1#32) = true := by
  decide +kernel

theorem test_hyp_WriteSpsrResults : arm.spsr = some 0#32 ∧
    (∀ k < 4, byteNat 0x12000078#32 k = if (9#4 : BitVec 4).getLsbD k then byteNat 0x12345678#32 k else byteNat 0#32 k) ∧
    nextIs (exec (.msrReg al true 9#4 1#4) (regs arm [(1, 0x12345678)])) (fun t => t.spsrSvc == 0x12000078#32) = true ∧
    refusedIs (exec (.msrImm .al true 1#4 0#4 0#8) (inMode arm .usr)) .noSpsr = true ∧ plainOk al [15#4] = false := by
  decide +kernel

theorem test_hyp_ChangeStateResults : arm.cfg.haveV6 = true ∧ thumb.cpsr.it = 0#8 ∧ runs (encOf false) true arm = true ∧
    runs (encOf true) true thumb = true ∧ runs (encOf true) false thumb = true ∧ Mode.ofBits 27#5 = some .und ∧
    Mode.ofBits 0#5 = none ∧
    nextIs (exec (.cpsid false true true true true 27#5) (inMode arm .usr)) (fun t => t.cpsr == (inMode arm .usr).cpsr) = true ∧
    refusedIs (exec (.cpsie false true true true true 0#5) arm) .badMode = true := by decide +kernel

theorem test_hyp_LoadResults :
    ready true al v47 (memOk v47.cfg al true true 0#4 (memParts (.aImm .pre true 1#4 4#12))) = true ∧
    ready true al v47 (memOk v47.cfg al true true 0#4 (memParts (.aImm .offset true 15#4 4#12))) = true ∧
    ready v47.cfg.haveT2 .thumb { v47 with cpsr := { v47.cpsr with t := true } }
      (memOk v47.cfg .thumb true true 13#4 (memParts (.tLit true 4#12))) = true ∧
    memOk v47.cfg al true true 1#4 (memParts (.aImm .post true 1#4 4#12)) = false ∧
    memOk v4.cfg al true true 0#4 (memParts (.aReg .post true 1#4 1#4 .lsl 0#5)) = false ∧
    allowsAccess v47 v47.privileged Rights.read 0x1000#32 .word = true ∧
    allowsAccess v47 v47.privileged Rights.read 0x1001#32 .half = false ∧ v4.cfg.haveT2 = false := by decide +kernel

theorem test_hyp_StoreResults : Memory.wf v47.mem = true ∧
    ready true al v47 (memOk v47.cfg al false true 0#4 (memParts (.aReg .pre true 1#4 2#4 .lsl 0#5))) = true ∧
    memOk v47.cfg al false true 0#4 (memParts (.aImm .offset true 15#4 4#12)) = false ∧
    allowsAccess v47 true Rights.write 0x1000#32 .word = true ∧ touchesCode v47 0x1000#32 .word = false ∧
    allowsAccess v47 true Rights.write 0x8000#32 .word = false ∧
    refusedIs (exec (.str al 0#4 (.aImm .offset true 1#4 0#12))
      (cfgd v47 fun c => { c with memMap := [⟨0, 0xFFFFFFFF, ⟨true, true, true⟩, ⟨true, true, true⟩⟩] })) .storeToCode = true := by
  decide +kernel

theorem test_hyp_ExceptionReturnResults :
    let s := { regs (inMode arm .irq) [(14, 0x9006)] with spsrIrq := 0x600000D0#32 }
    runs al true s = true ∧ s.spsr = some 0x600000D0#32 ∧ Mode.ofBits ((0x600000D0#32).extractLsb' 0 5) = some .usr ∧
    (0x600000D0#32).getLsbD 24 = false ∧ endsBlock thumb = true ∧ runs .thumb true thumb = true ∧
    refusedIs (exec (.sub al true 15#4 14#4 (.immA 0#4 4#8)) s) .misalignedReturn = true ∧
    nextIs (exec (.sub al true 15#4 14#4 (.immA 0#4 4#8)) { s with spsrIrq := 0x000000F0#32 }) (fun t => t.pc == 0x9002#32 && t.cpsr.t) = true ∧
    refusedIs (exec (.sub al true 15#4 14#4 (.immA 0#4 4#8)) { s with spsrIrq := 0x01000010#32 }) .badReturnState = true ∧
    refusedIs (exec (.sub al true 15#4 14#4 (.immA 0#4 4#8)) { s with spsrIrq := 0#32 }) .badReturnState = true := by
  decide +kernel

theorem test_hyp_ExceptionEntry :
    let s := { flags thumb true true with pc := 0x8006#32 }
    let t := takeException .irq s
    Exc.mode .irq ≠ .fiq ∧ Exc.mode .irq ≠ .svc ∧ Exc.mode .irq ≠ .abt ∧ Exc.mode .irq ≠ .und ∧ Exc.mode .fiq ≠ .irq ∧
    t.spsrIrq = 0x600001F3#32 ∧ t.reg 14#4 = 0x800A#32 ∧ t.pc = 0xFFFF0018#32 ∧ t.cpsr.t = false := by decide

/-- The features of log 1 and none of them. -/
theorem test_hyp_InvariantHoldsAtReset : Config.atReset.wf = true ∧ v4.cfg.wf = true := by decide

theorem test_hyp_FaultState : arm.cfg.trapModel = .fault ∧ (asserted ⟨true, false, false⟩ .classic false false false).cfg.trapModel = .classic
    := by decide

/-- The program interrupted is in User mode and Thumb state, inside an IT block. -/
theorem test_hyp_ReturnResumesProgram :
    let s := inIt (inMode thumb .usr) 0x0C#8
    RunInv s ∧ Exc.irq ≠ .supervisorCall ∧ s.cfg.thumbExceptionEntry = false ∧ condHolds .al s.cpsr = true ∧ (4#8 : BitVec 8).toNat = 4 ∧
    nextIs (exec (.sub al true 15#4 14#4 (.immA 0#4 4#8)) (takeException .irq s)) (fun t => t.pc == s.pc && t.cpsr == s.cpsr) = true := by
  unfold RunInv
  decide +kernel

theorem test_hyp_UserModeConfined : (inMode arm .usr).cpsr.mode = .usr ∧
    nextIs (exec (.msrReg al false 15#4 1#4) (regs (inMode arm .usr) [(1, 0xFFFFFFFF)])) (fun t => t.cpsr.mode == .usr && t.cpsr.v) = true
    := by decide +kernel

theorem test_hyp_WritersOfEachState : writesPc (.clz al 0#4 1#4) = false ∧ isStore (.clz al 0#4 1#4) = false ∧
    writesAc (.clz al 0#4 1#4) = false ∧ writesSpsr (.clz al 0#4 1#4) = false ∧
    nextIs (exec (.clz al 0#4 1#4) arm) (fun t => t.pc == 0x8004#32) = true := by decide +kernel

theorem test_hyp_ProgramTextFixed : executable arm.cfg 0x8000#32 = true ∧
    nextIs (step (arm.withFetchWord 32 0xE5810004)) (fun t => t.byteAt 0x8000#32 == 0x04#8) = true := by decide +kernel

theorem test_hyp_MemoryStaysCanonical : Memory.wf v47.mem = true ∧ Memory.wf [] = true ∧
    Memory.get (Memory.put v47.mem 0x1000 0#8) 0x1000 = 0#8 := by decide

theorem test_hyp_ResetState : Config.atReset.haveV6 = true ∧ Config.atReset.haveThumb = true ∧ Config.atReset.wf = true := by decide

/-- Every constructor has well-formed terms: the words of the decode tests are theirs. -/
theorem test_hyp_DecodeOfEncode : (∀ x ∈ words_add_subtract,
    x.2.wellFormed = true ∧ encode x.2 = some x.1) := by decide +kernel

theorem test_hyp_InvariantKept : RunInv (arm.withFetchWord 32 0xE2810001) ∧
    nextIs (step (arm.withFetchWord 32 0xE2810001)) (fun t => t.reg 0#4 == 1#32) = true := by
  unfold RunInv
  decide +kernel

/-! ### The host's questions -/

/-- A row's word decodes and runs as the first instruction after reset: A32, T32, T16, and an A32 word without a
condition. -/
theorem test_first_instruction :
    decodeTableWord 32 0xE2810001 = some (.add al false 0#4 1#4 (.immA 0#4 1#8)) ∧
    nextIs (step (State.reset.withFetchWord 32 0xE2810001)) (fun t => t.reg 0#4 == 1#32) = true ∧
    decodeTableWord 32 0xF1010001 = some (.add .thumb false 0#4 1#4 (.immT 1#12)) ∧
    nextIs (step (State.reset.withFetchWord 32 0xF1010001)) (fun t => t.reg 0#4 == 1#32) = true ∧
    decodeTableWord 16 0xBF0C = some (.it 0#4 12#4) ∧
    nextIs (step (State.reset.withFetchWord 16 0xBF0C)) (fun t => t.cpsr.it == 0x0C#8) = true ∧
    decodeTableWord 32 0xF10C00C0 = some (.cpsid false false false true true 0#5) := by decide +kernel

end Sys2Proof.Tests
end

section
/-! SUPPORT and PROOFS. `AddWithCarry` and `Shift_C` (spec 00_scope R9, R10): one lemma for the result and one for the
carry of each operation, and the two statements assembled from them. -/

namespace Sys2Proof.Machine

open Sys2Proof

/-! ### `AddWithCarry` (R9) -/

theorem addWithCarry_result (a b : Word) (cin : Bool) :
    (addWithCarry a b cin).1 = a + b + (if cin then 1#32 else 0#32) := by
  apply BitVec.eq_of_toNat_eq
  cases cin <;> simp [addWithCarry, BitVec.toNat_add]

theorem addWithCarry_carry (a b : Word) (cin : Bool) :
    (addWithCarry a b cin).2.1 = true ↔ 2 ^ 32 ≤ a.toNat + b.toNat + cin.toNat := by
  simp only [addWithCarry, BitVec.toNat_ofNat, bne_iff_ne]
  omega

/-- The unsigned sum, truncated and read as signed, is the signed sum wrapped into the signed range. -/
theorem toInt_ofNat_sum (a b : Word) (c : Nat) :
    (BitVec.ofNat 32 (a.toNat + b.toNat + c)).toInt = (a.toInt + b.toInt + c).bmod (2 ^ 32) := by
  rw [BitVec.toInt_ofNat', BitVec.toInt_eq_toNat_bmod a, BitVec.toInt_eq_toNat_bmod b, add_assoc (Int.bmod _ _),
    Int.bmod_add_bmod, add_left_comm, Int.bmod_add_bmod]
  congr 1
  push_cast
  ring

theorem addWithCarry_overflow (a b : Word) (cin : Bool) :
    (addWithCarry a b cin).2.2 = true ↔
      a.toInt + b.toInt + cin.toNat < -2147483648 ∨ 2147483647 < a.toInt + b.toInt + cin.toNat := by
  simp only [addWithCarry, toInt_ofNat_sum, bne_iff_ne, Int.bmod_def]
  omega

/-- Subtraction is addition of the inverted word: `NOT b = -b - 1`, so a carry in of 0 borrows one more. -/
theorem addWithCarry_not_result (a b : Word) (cin : Bool) :
    (addWithCarry a (~~~b) cin).1 = a - b - (if cin then 0#32 else 1#32) := by
  have hnot : ~~~b = -b - 1#32 := by rw [BitVec.neg_eq_not_add, BitVec.add_sub_cancel]
  rw [addWithCarry_result, hnot]
  cases cin <;> simp <;> bv_omega

theorem addWithCarry_not_carry (a b : Word) :
    (addWithCarry a (~~~b) true).2.1 = true ↔ b.toNat ≤ a.toNat := by
  rw [addWithCarry_carry, BitVec.toNat_not, Bool.toNat_true]
  omega

/-! ### `Shift_C` (R10): an equation for each case, then the bits and the carry of each shift type -/

theorem shiftC_zero (v : Word) (ty : ShiftType) (cin : Bool) : shiftC v ty 0 cin = (v, cin) := rfl

section
variable (v : Word) (cin : Bool) {n : Nat}

theorem shiftC_lsl_of_le (hn : 0 < n) (h : n ≤ 32) :
    shiftC v .lsl n cin = (v <<< n, (v.toNat * 2 ^ n).testBit 32) := by
  simp [shiftC, hn.ne', h]

theorem shiftC_lsl_of_gt (h : 32 < n) : shiftC v .lsl n cin = (0#32, false) := by
  simp [shiftC, Nat.ne_zero_of_lt h, h.not_ge]

theorem shiftC_lsr_of_le (hn : 0 < n) (h : n ≤ 32) :
    shiftC v .lsr n cin = (v >>> n, v.getLsbD (n - 1)) := by
  simp [shiftC, hn.ne', h]

theorem shiftC_lsr_of_gt (h : 32 < n) : shiftC v .lsr n cin = (0#32, false) := by
  simp [shiftC, Nat.ne_zero_of_lt h, h.not_ge]

theorem shiftC_asr_of_lt (hn : 0 < n) (h : n < 32) :
    shiftC v .asr n cin = (v.sshiftRight n, v.getLsbD (n - 1)) := by
  simp [shiftC, hn.ne', h]

theorem shiftC_asr_of_ge (h : 32 ≤ n) :
    shiftC v .asr n cin = (if v.msb then BitVec.allOnes 32 else 0#32, v.msb) := by
  have hn : n ≠ 0 := by omega
  simp [shiftC, hn, h.not_gt]

theorem shiftC_ror (hn : 0 < n) :
    shiftC v .ror n cin =
      (if n % 32 = 0 then v else rorWord v n, (if n % 32 = 0 then v else rorWord v n).msb) := by
  simp only [shiftC, hn.ne', if_false]

theorem shiftC_lsl_bit (hn : 0 < n) {i : Nat} (hi : i < 32) :
    (shiftC v .lsl n cin).1.getLsbD i = (decide (n ≤ i) && v.getLsbD (i - n)) := by
  rcases Nat.lt_or_ge 32 n with h | h
  · have hni : ¬ n ≤ i := by omega
    rw [shiftC_lsl_of_gt v cin h, decide_eq_false hni, BitVec.getLsbD_zero, Bool.false_and]
  · rw [shiftC_lsl_of_le v cin hn h, BitVec.getLsbD_shiftLeft, decide_eq_true hi, Bool.true_and, ← decide_not]
    simp only [Nat.not_lt]

/-- The bit shifted out of a left shift is bit 32 of `v * 2 ^ n`. -/
theorem shiftC_lsl_carry (hn : 0 < n) :
    (shiftC v .lsl n cin).2 = (decide (n ≤ 32) && v.getLsbD (32 - n)) := by
  rcases Nat.lt_or_ge 32 n with h | h
  · rw [shiftC_lsl_of_gt v cin h, decide_eq_false h.not_ge, Bool.false_and]
  · rw [shiftC_lsl_of_le v cin hn h, Nat.testBit_mul_two_pow, BitVec.testBit_toNat]

theorem shiftC_lsr_bit (hn : 0 < n) (i : Nat) :
    (shiftC v .lsr n cin).1.getLsbD i = v.getLsbD (i + n) := by
  rcases Nat.lt_or_ge 32 n with h | h
  · rw [shiftC_lsr_of_gt v cin h, BitVec.getLsbD_of_ge v (i + n) (by omega), BitVec.getLsbD_zero]
  · rw [shiftC_lsr_of_le v cin hn h, BitVec.getLsbD_ushiftRight, Nat.add_comm]

theorem shiftC_lsr_carry (hn : 0 < n) : (shiftC v .lsr n cin).2 = v.getLsbD (n - 1) := by
  rcases Nat.lt_or_ge 32 n with h | h
  · rw [shiftC_lsr_of_gt v cin h, BitVec.getLsbD_of_ge v (n - 1) (by omega)]
  · rw [shiftC_lsr_of_le v cin hn h]

/-- The places above the top of the word read the sign bit, which is bit 31. -/
theorem shiftC_asr_bit (hn : 0 < n) {i : Nat} (hi : i < 32) :
    (shiftC v .asr n cin).1.getLsbD i = v.getLsbD (min (i + n) 31) := by
  have hmsb : v.msb = v.getLsbD 31 := BitVec.msb_eq_getLsbD_last v
  rcases Nat.lt_or_ge n 32 with h | h
  · rw [shiftC_asr_of_lt v cin hn h, BitVec.getLsbD_sshiftRight, decide_eq_false hi.not_ge, Bool.not_false,
      Bool.true_and, Nat.add_comm n i, hmsb]
    split
    · rw [Nat.min_eq_left (by omega)]
    · rw [Nat.min_eq_right (by omega)]
  · rw [shiftC_asr_of_ge v cin h, Nat.min_eq_right (by omega), ← hmsb]
    cases v.msb
    · exact BitVec.getLsbD_zero
    · exact BitVec.getLsbD_allOnes.trans (decide_eq_true hi)

theorem shiftC_asr_carry (hn : 0 < n) : (shiftC v .asr n cin).2 = v.getLsbD (min (n - 1) 31) := by
  rcases Nat.lt_or_ge n 32 with h | h
  · rw [shiftC_asr_of_lt v cin hn h, Nat.min_eq_left (by omega)]
  · rw [shiftC_asr_of_ge v cin h, Nat.min_eq_right (by omega), BitVec.msb_eq_getLsbD_last]

/-- A rotation takes the bit `n` places up, the amount modulo 32: a bit that falls off the bottom of the right shift
stands in the left shift. -/
theorem rorWord_bit (n : Nat) {i : Nat} (hi : i < 32) :
    (rorWord v n).getLsbD i = v.getLsbD ((i + n) % 32) := by
  simp only [rorWord, BitVec.getLsbD_or, BitVec.getLsbD_ushiftRight, BitVec.getLsbD_shiftLeft, hi, decide_true,
    Bool.true_and]
  by_cases hin : i + n % 32 < 32
  · have hmod : (i + n) % 32 = n % 32 + i := by omega
    have hleft : i < 32 - n % 32 := by omega
    simp [hmod, hleft]
  · have hmod : (i + n) % 32 = i - (32 - n % 32) := by omega
    have hright : v.getLsbD (n % 32 + i) = false := BitVec.getLsbD_of_ge v _ (by omega)
    have hleft : ¬ i < 32 - n % 32 := by omega
    simp [hmod, hright, hleft]

theorem shiftC_ror_bit (hn : 0 < n) {i : Nat} (hi : i < 32) :
    (shiftC v .ror n cin).1.getLsbD i = v.getLsbD ((i + n) % 32) := by
  rw [shiftC_ror v cin hn]
  split
  · have hmod : (i + n) % 32 = i := by omega
    rw [hmod]
  · exact rorWord_bit v n hi

/-- The carry of a rotation is the top bit of its result. -/
theorem shiftC_ror_carry (hn : 0 < n) : (shiftC v .ror n cin).2 = v.getLsbD ((n + 31) % 32) := by
  have htop : (shiftC v .ror n cin).2 = (shiftC v .ror n cin).1.getLsbD 31 := by
    rw [shiftC_ror v cin hn, BitVec.msb_eq_getLsbD_last]
  rw [htop, shiftC_ror_bit v cin hn (by omega), Nat.add_comm]

theorem rrxC_bit {i : Nat} (hi : i < 31) : (rrxC v cin).1.getLsbD i = v.getLsbD (i + 1) := by
  rw [rrxC, BitVec.getLsbD_append, if_pos hi, BitVec.getLsbD_extractLsb', decide_eq_true hi, Bool.true_and,
    Nat.add_comm]

theorem rrxC_top : (rrxC v cin).1.getLsbD 31 = cin := by
  rw [rrxC, BitVec.getLsbD_append, if_neg (by omega), BitVec.getLsbD_ofBool]
  simp

end

/-! ### The statements -/

/-- Settles O2: every shift type's bits and carry by the lemmas above, for every amount. -/
theorem shiftWithCarry : Obligations.ShiftWithCarry := by
  intro v cin
  refine ⟨fun ty => shiftC_zero v ty cin, fun n hn => ?_, fun i hi => rrxC_bit v cin hi, rrxC_top v cin, rfl⟩
  exact ⟨fun i hi => shiftC_lsl_bit v cin hn hi, shiftC_lsl_carry v cin hn,
    fun i _ => shiftC_lsr_bit v cin hn i, shiftC_lsr_carry v cin hn,
    fun i hi => shiftC_asr_bit v cin hn hi, shiftC_asr_carry v cin hn,
    fun i hi => shiftC_ror_bit v cin hn hi, shiftC_ror_carry v cin hn⟩

/-- Settles O1: sum, carry and overflow for all words, and the subtraction as the sum with the inverted word. -/
theorem addWithCarryFlags : Obligations.AddWithCarryFlags := by
  intro a b cin
  exact ⟨addWithCarry_result a b cin, addWithCarry_carry a b cin, addWithCarry_overflow a b cin,
    addWithCarry_not_result a b cin, addWithCarry_not_carry a b⟩

end Sys2Proof.Machine
end

section
/-! SUPPORT and PROOFS. The condition codes (spec 30_encoding R131): when each compound condition holds, which conditions
are inverses of each other, and which encodings are a condition. -/

namespace Sys2Proof.Machine

open Sys2Proof

/-! ### The conditions that read more than one flag -/

section
variable (p : Cpsr)

theorem condHolds_hi : condHolds .hi p = true ↔ p.c = true ∧ p.z = false := by
  simp [condHolds]

theorem condHolds_ge : condHolds .ge p = true ↔ p.n = p.v := by
  simp [condHolds]

/-- `GT` is `GE` without equality. -/
theorem condHolds_gt : condHolds .gt p = true ↔ p.z = false ∧ p.n = p.v := by
  simp [condHolds]

/-! ### Inverses: the compound conditions by De Morgan, then every pair of encodings that differ in bit 0 -/

theorem condHolds_ls : condHolds .ls p = !condHolds .hi p := by
  simp [condHolds, Bool.not_and]

theorem condHolds_lt : condHolds .lt p = !condHolds .ge p := rfl

theorem condHolds_le : condHolds .le p = !condHolds .gt p := by
  simp [condHolds, Bool.not_and, bne]

theorem condHolds_condOf_odd : ∀ k < 7, condHolds (condOf (2 * k + 1)) p = !condHolds (condOf (2 * k)) p
  | 0, _ => rfl
  | 1, _ => rfl
  | 2, _ => rfl
  | 3, _ => rfl
  | 4, _ => condHolds_ls p
  | 5, _ => condHolds_lt p
  | 6, _ => condHolds_le p

end

/-! ### Encodings -/

/-- 1111 is the unconditional space of R116. -/
theorem condOfBits_unconditional : condOfBits 15#4 = none := rfl

theorem condOfBits_of_ne {b : BitVec 4} (h : b ≠ 15#4) : condOfBits b = some (condOf b.toNat) :=
  if_neg h

theorem condOfBits_ofNat {k : Nat} (hk : k < 15) : condOfBits (BitVec.ofNat 4 k) = some (condOf k) := by
  have hval : (BitVec.ofNat 4 k).toNat = k := by
    rw [BitVec.toNat_ofNat, Nat.mod_eq_of_lt (by omega)]
  have hne : BitVec.ofNat 4 k ≠ 15#4 := fun h => by
    rw [h, BitVec.toNat_ofNat] at hval
    omega
  rw [condOfBits_of_ne hne, hval]

/-! ### The statement -/

/-- Settles O4: `EQ`, `CS`, `MI` and `VS` are a flag each and `AL` is `true` by definition; the rest by the lemmas above. -/
theorem conditionTable : Obligations.ConditionTable := by
  intro p
  exact ⟨Iff.rfl, Iff.rfl, Iff.rfl, Iff.rfl, condHolds_hi p, condHolds_ge p, condHolds_gt p, rfl,
    condHolds_condOf_odd p, condOfBits_unconditional, fun _ hk => condOfBits_ofNat hk⟩

end Sys2Proof.Machine
end

section
/-! SUPPORT and PROOFS. Encoding and decoding agree (spec 30_encoding sections 2 and 3): the row that the encoder names
for an instruction is a row of the table, its field values fit it, and it reads them as the instruction. -/

namespace Sys2Proof

open Sys2Proof.Machine

/-! ### Fields: each is in range and is read back -/

@[simp] theorem condOf_num (c : Cond) : condOf c.num = c := by cases c <;> rfl

@[simp] theorem shiftOf_num (t : ShiftType) : shiftOf t.num = t := by cases t <;> rfl

@[simp] theorem bitOf_toNat (b : Bool) : bitOf b.toNat = b := by cases b <;> rfl

@[simp] theorem regOf_toNat (r : Reg) : regOf r.toNat = r := by simp [regOf]

@[simp] theorem five_toNat (x : BitVec 5) : five x.toNat = x := by simp [five]

@[simp] theorem imm12Of_fields (x : BitVec 12) :
    imm12Of (x.toNat / 2048) (x.toNat / 256 % 8) (x.toNat % 256) = x := by
  apply BitVec.eq_of_toNat_eq
  rw [imm12Of, BitVec.toNat_ofNat]
  omega

@[simp] theorem imm5Of_fields (x : BitVec 5) : imm5Of (x.toNat / 4) (x.toNat % 4) = x := by
  apply BitVec.eq_of_toNat_eq
  rw [imm5Of, BitVec.toNat_ofNat]
  omega

/-- An amount below 4 has no high part. -/
theorem imm5Of_zero (x : BitVec 5) (h : x.toNat / 4 = 0) : imm5Of 0 (x.toNat % 4) = x := by
  rw [← h, imm5Of_fields]

@[simp] theorem Cond.num_lt (c : Cond) : c.num < 15 := by cases c <;> decide

@[simp] theorem ShiftType.num_lt (t : ShiftType) : t.num < 4 := by cases t <;> decide

/-- A field that a pattern has no further condition on. -/
@[simp] theorem fits_f (w : Nat) (p : List Seg) (x : BitVec w) (xs : List Nat) :
    fits (.f w :: p) (x.toNat :: xs) = fits p xs := by
  simp [fits, x.isLt]

@[simp] theorem fits_bit (p : List Seg) (b : Bool) (xs : List Nat) :
    fits (.f 1 :: p) (b.toNat :: xs) = fits p xs := by
  cases b <;> simp [fits]

@[simp] theorem fits_shift (p : List Seg) (t : ShiftType) (xs : List Nat) :
    fits (.f 2 :: p) (t.num :: xs) = fits p xs := by
  simp [fits, t.num_lt]

@[simp] theorem fits_cond (p : List Seg) (c : Cond) (xs : List Nat) :
    fits (.fx 4 15 :: p) (c.num :: xs) = fits p xs := by
  have h := c.num_lt
  have hlt : c.num < 16 := by omega
  have hne : c.num ≠ 15 := by omega
  simp [fits, hlt, hne]

/-- A field that must differ from `v`. -/
theorem fits_fx (w v : Nat) (p : List Seg) (x : BitVec w) (xs : List Nat) (h : x.toNat ≠ v) :
    fits (.fx w v :: p) (x.toNat :: xs) = fits p xs := by
  simp [fits, x.isLt, h]

@[simp] theorem fits_nil : fits [] [] = true := rfl

@[simp] theorem fits_k (w v : Nat) (p : List Seg) (xs : List Nat) :
    fits (.k w v :: p) xs = (decide (v < 2 ^ w) && fits p xs) := by
  simp [fits]

/-- Part of an immediate: a number in range. -/
theorem fits_part (w x : Nat) (p : List Seg) (xs : List Nat) (h : x < 2 ^ w) :
    fits (.f w :: p) (x :: xs) = fits p xs := by
  simp [fits, h]

/-! ### Rows -/

/-- The instruction set of an instruction's encoding (R111, R116, R119). -/
def isaOf (i : Instr) : Isa :=
  if (encodingOf i).isThumb then (if sizeOf2 i = 2#32 then .t16 else .t32) else .a32

/-- The rows of an instruction set. -/
def rowsOf : Isa → List Row
  | .a32 => rowsA32
  | .t32 => rowsT32
  | .t16 => rowsT16

/-- The encoding names a row of the table, its field values fit, and the row reads them as `i`. -/
structure Encodes (x : Enc1) (i : Instr) : Prop where
  isa : x.1 = isaOf i
  fit : fits x.2.1 x.2.2 = true
  row : ∃ r ∈ rowsOf x.1, r.pat = x.2.1 ∧ r.build x.2.2 = some i

/-- What is encoded is read back (R114). -/
theorem decodeCode_of_encodes {x : Enc1} {i : Instr} (h : Encodes x i) :
    decodeCode (Code.ofNat x.1 (assemble x.2.1 x.2.2)) = some i := by
  obtain ⟨isa, p, xs⟩ := x
  obtain ⟨-, hf, r, hr, hp, hb⟩ := h
  simp only at hf hp hb hr ⊢
  subst hp
  cases isa with
  | a32 => exact decodeCode_a32 r xs i hr hf hb
  | t32 => exact decodeCode_t32 r xs i hr hf hb
  | t16 => exact decodeCode_t16 r xs i hr hf hb

/-- Thumb encodings have two or four bytes, ARM encodings four (R40, R111). -/
theorem sizeOf2_eq (i : Instr) : sizeOf2 i = 4#32 ∨ sizeOf2 i = 2#32 ∧ (encodingOf i).isThumb = true := by
  unfold sizeOf2
  split <;> simp [encodingOf, Enc.isThumb, encOf]

theorem isThumb_of_isaOf (i : Instr) (n : Nat) : (Code.ofNat (isaOf i) n).isThumb = (encodingOf i).isThumb := by
  unfold isaOf
  split
  · rename_i h
    split <;> simp [Code.ofNat, Code.isThumb, h]
  · rename_i h
    simp [Code.ofNat, Code.isThumb, h]

theorem size_of_isaOf (i : Instr) (n : Nat) : BitVec.ofNat 32 (Code.ofNat (isaOf i) n).size = sizeOf2 i := by
  unfold isaOf
  rcases sizeOf2_eq i with h | ⟨h, ht⟩
  · rw [h]
    split <;> rfl
  · rw [h, ht]
    rfl

/-- A row found by its pattern in a part of the table. -/
theorem encodes_of_find {isa : Isa} {rows : List Row} {p : List Seg} {xs : List Nat} {i : Instr} {r : Row}
    (hg : rows ⊆ rowsOf isa) (hf : fits p xs = true)
    (hr : rows.find? (fun r => r.pat == p) = some r := by rfl)
    (hb : r.build xs = some i := by simp [rowC2, rowC3, rowC4, rowT3, rowT4, rowTwice])
    (hi : isa = isaOf i := by rfl) : Encodes (isa, p, xs) i :=
  ⟨hi, hf, r, hg (List.mem_of_find?_eq_some hr), by simpa using List.find?_some hr, hb⟩

/-- The `n`-th row of a part of the table. -/
theorem encodes_of_nth {isa : Isa} {rows : List Row} {p : List Seg} {xs : List Nat} {i : Instr} {r : Row} (n : Nat)
    (hg : rows ⊆ rowsOf isa) (hi : isa = isaOf i) (hf : fits p xs = true)
    (hr : rows[n]? = some r := by rfl) (hp : r.pat = p := by rfl) (hb : r.build xs = some i := by simp) :
    Encodes (isa, p, xs) i :=
  ⟨hi, hf, r, hg (List.mem_of_getElem? hr), hp, hb⟩

theorem rowsMovA_sub : rowsMovA ⊆ rowsOf .a32 := fun r h => by simp [rowsOf, rowsA32, h]
theorem rowsParA_sub : rowsParA ⊆ rowsOf .a32 := fun r h => by simp [rowsOf, rowsA32, h]
theorem rowsMediaA_sub : rowsMediaA ⊆ rowsOf .a32 := fun r h => by simp [rowsOf, rowsA32, h]
theorem rowsMulA_sub : rowsMulA ⊆ rowsOf .a32 := fun r h => by simp [rowsOf, rowsA32, h]
theorem rowsXsA_sub : rowsXsA ⊆ rowsOf .a32 := fun r h => by simp [rowsOf, rowsA32, h]
theorem rowsBitA_sub : rowsBitA ⊆ rowsOf .a32 := fun r h => by simp [rowsOf, rowsA32, h]
theorem rowsSysA_sub : rowsSysA ⊆ rowsOf .a32 := fun r h => by simp [rowsOf, rowsA32, h]
theorem rowsDpT_sub : rowsDpT ⊆ rowsOf .t32 := fun r h => by simp [rowsOf, rowsT32, h]
theorem rowsImmT_sub : rowsImmT ⊆ rowsOf .t32 := fun r h => by simp [rowsOf, rowsT32, h]
theorem rowsParT_sub : rowsParT ⊆ rowsOf .t32 := fun r h => by simp [rowsOf, rowsT32, h]
theorem rowsMediaT_sub : rowsMediaT ⊆ rowsOf .t32 := fun r h => by simp [rowsOf, rowsT32, h]
theorem rowsMulT_sub : rowsMulT ⊆ rowsOf .t32 := fun r h => by simp [rowsOf, rowsT32, h]
theorem rowsSysT_sub : rowsSysT ⊆ rowsOf .t32 := fun r h => by simp [rowsOf, rowsT32, h]


end Sys2Proof

namespace Sys2Proof
open Sys2Proof.Machine

/-! ### Families of rows -/

/-- A register field is 1111 just when it names R15. -/
theorem reg_toNat_eq_pc (r : Reg) : r.toNat = 15 ↔ r = 15#4 :=
  ⟨fun h => BitVec.eq_of_toNat_eq h, fun h => h ▸ rfl⟩

theorem fits_imm12_hi (p : List Seg) (x : BitVec 12) (xs : List Nat) :
    fits (.f 1 :: p) (x.toNat / 2048 :: xs) = fits p xs := fits_part 1 _ p xs (by omega)

theorem fits_imm12_mid (p : List Seg) (n : Nat) (xs : List Nat) :
    fits (.f 3 :: p) (n / 256 % 8 :: xs) = fits p xs := fits_part 3 _ p xs (by omega)

theorem fits_imm12_lo (p : List Seg) (n : Nat) (xs : List Nat) :
    fits (.f 8 :: p) (n % 256 :: xs) = fits p xs := fits_part 8 _ p xs (by omega)

theorem fits_imm5_hi (p : List Seg) (x : BitVec 5) (xs : List Nat) :
    fits (.f 3 :: p) (x.toNat / 4 :: xs) = fits p xs := fits_part 3 _ p xs (by omega)

theorem fits_imm5_lo (p : List Seg) (n : Nat) (xs : List Nat) :
    fits (.f 2 :: p) (n % 4 :: xs) = fits p xs := fits_part 2 _ p xs (by omega)

section
variable {c : Cond} {s : Bool} {rd rn rm : Reg} {o : Op2}

/-- The three A32 rows of a data-processing instruction. -/
theorem encodes_dpA {op opT : Nat} {kind : TKind} {mk : Cond → Bool → Reg → Reg → Op2 → Instr}
    (hg : dpA op mk ⊆ rowsOf .a32) (hop : op < 16) (ho : o.wf (.a32 c) = true)
    (hi : .a32 = isaOf (mk c s rd rn o)) :
    Encodes (encDp op opT kind (.a32 c) s rd rn o) (mk c s rd rn o) := by
  cases o with
  | immA r i => exact encodes_of_nth 0 hg hi (by simp [pDpImm, cnd, hop])
  | immT i => simp [Op2.wf, Enc.isThumb] at ho
  | reg m t sh => exact encodes_of_nth 1 hg hi (by simp [pDpReg, cnd, hop])
  | regReg m t r => exact encodes_of_nth 2 hg hi (by simp [pDpRegReg, cnd, hop])

/-- The four T32 rows of AND, EOR, ADD and SUB. -/
theorem encodes_dpT {opA op : Nat} {mk : Bool → Reg → Reg → Op2 → Instr}
    (hg : dpT op mk ⊆ rowsOf .t32) (hop : op < 16) (ho : o.wf .thumb = true) (hd : ¬(rd = 15#4 ∧ s = true))
    (hi : .t32 = isaOf (mk s rd rn o)) :
    Encodes (encDp opA op .shared .thumb s rd rn o) (mk s rd rn o) := by
  cases o with
  | immA r i => simp [Op2.wf, Enc.isThumb] at ho
  | regReg m t r => simp [Op2.wf, Enc.isThumb] at ho
  | immT i =>
    cases s with
    | false => exact encodes_of_nth 0 hg hi (by simp [tDpImm, hop, fits_imm12_hi, fits_imm12_mid, fits_imm12_lo])
    | true =>
      have hpc : rd ≠ 15#4 := fun h => hd ⟨h, rfl⟩
      exact encodes_of_nth 1 hg hi
        (by simp [tDpImm, hop, fits_imm12_hi, fits_imm12_mid, fits_imm12_lo, fits_fx, reg_toNat_eq_pc, hpc])
  | reg m t sh =>
    cases s with
    | false => exact encodes_of_nth 2 hg hi (by simp [tDpReg, hop, fits_imm5_hi, fits_imm5_lo])
    | true =>
      have hpc : rd ≠ 15#4 := fun h => hd ⟨h, rfl⟩
      exact encodes_of_nth 3 hg hi (by simp [tDpReg, hop, fits_imm5_hi, fits_imm5_lo, fits_fx, reg_toNat_eq_pc, hpc])

/-- The two T32 rows of BIC, ADC, SBC and RSB. -/
theorem encodes_dpT_plain {opA op : Nat} {mk : Bool → Reg → Reg → Op2 → Instr}
    (hg : dpTn op (.f 4) mk ⊆ rowsOf .t32) (hop : op < 16) (ho : o.wf .thumb = true)
    (hi : .t32 = isaOf (mk s rd rn o)) :
    Encodes (encDp opA op .plain .thumb s rd rn o) (mk s rd rn o) := by
  cases o with
  | immA r i => simp [Op2.wf, Enc.isThumb] at ho
  | regReg m t r => simp [Op2.wf, Enc.isThumb] at ho
  | immT i => exact encodes_of_nth 0 hg hi (by simp [tDpImm, hop, fits_imm12_hi, fits_imm12_mid, fits_imm12_lo])
  | reg m t sh => exact encodes_of_nth 1 hg hi (by simp [tDpReg, hop, fits_imm5_hi, fits_imm5_lo])

/-- The two T32 rows of ORR and ORN, in which Rn = 1111 is MOV and MVN. -/
theorem encodes_dpT_noPcN {opA op : Nat} {mk : Bool → Reg → Reg → Op2 → Instr}
    (hg : dpTn op (.fx 4 15) mk ⊆ rowsOf .t32) (hop : op < 16) (ho : o.wf .thumb = true) (hn : rn ≠ 15#4)
    (hi : .t32 = isaOf (mk s rd rn o)) :
    Encodes (encDp opA op .noPcN .thumb s rd rn o) (mk s rd rn o) := by
  cases o with
  | immA r i => simp [Op2.wf, Enc.isThumb] at ho
  | regReg m t r => simp [Op2.wf, Enc.isThumb] at ho
  | immT i =>
    exact encodes_of_nth 0 hg hi
      (by simp [tDpImm, hop, fits_imm12_hi, fits_imm12_mid, fits_imm12_lo, fits_fx, reg_toNat_eq_pc, hn])
  | reg m t sh =>
    exact encodes_of_nth 1 hg hi (by simp [tDpReg, hop, fits_imm5_hi, fits_imm5_lo, fits_fx, reg_toNat_eq_pc, hn])

/-- The rows of a test or compare. -/
theorem encodes_test {opA opT : Nat} {e : Enc} {mk : Enc → Reg → Op2 → Instr}
    (hA : testA opA mk ⊆ rowsOf .a32) (hT : testT opT mk ⊆ rowsOf .t32) (hopA : opA < 16) (hopT : opT < 16)
    (ho : o.wf e = true) (hi : isaOf (mk e rn o) = if e.isThumb then .t32 else .a32) :
    Encodes (encTest opA opT e rn o) (mk e rn o) := by
  cases e with
  | a32 c =>
    cases o with
    | immA r i => exact encodes_of_nth 0 hA hi.symm (by simp [pTestImm, cnd, hopA])
    | immT i => simp [Op2.wf, Enc.isThumb] at ho
    | reg m t sh => exact encodes_of_nth 1 hA hi.symm (by simp [pTestReg, cnd, hopA])
    | regReg m t r => exact encodes_of_nth 2 hA hi.symm (by simp [pTestRegReg, cnd, hopA])
  | thumb =>
    cases o with
    | immA r i => simp [Op2.wf, Enc.isThumb] at ho
    | regReg m t r => simp [Op2.wf, Enc.isThumb] at ho
    | immT i =>
      exact encodes_of_nth 0 hT hi.symm (by simp [tDpImm, hopT, fits_imm12_hi, fits_imm12_mid, fits_imm12_lo])
    | reg m t sh => exact encodes_of_nth 1 hT hi.symm (by simp [tDpReg, hopT, fits_imm5_hi, fits_imm5_lo])

/-- The two rows of a parallel instruction. -/
theorem encodes_par {pa oa pt ot : Nat} {e : Enc} {mk : Enc → Reg → Reg → Reg → Instr}
    (hA : parA pa oa mk ∈ rowsOf .a32) (hT : parT pt ot mk ∈ rowsOf .t32) (hpa : pa < 8) (hoa : oa < 8) (hpt : pt < 8)
    (hot : ot < 8) (hi : isaOf (mk e rd rn rm) = if e.isThumb then .t32 else .a32) :
    Encodes (encPar pa oa pt ot e rd rn rm) (mk e rd rn rm) := by
  cases e with
  | a32 c =>
    have hp : 96 + pa < 256 := by omega
    exact ⟨hi.symm, by simp [encPar, encTwo, pMedia, cnd, hp, hoa], _, hA, rfl, by simp [encPar, encTwo, parA, rowC3]⟩
  | thumb =>
    have hp : 8 + ot < 16 := by omega
    have hq : pt < 16 := by omega
    exact ⟨hi.symm, by simp [encPar, encTwo, tReg, hp, hq], _, hT, rfl, by simp [encPar, encTwo, parT, rowT3]⟩

end

/-- The rows of a word or byte load or store in A32. -/
theorem encodes_memA {b l sh s sz : Nat} {d : Seg} {c : Cond} {rd : Reg} {m : MemForm} {mk : Enc → Reg → MemForm → Instr}
    (hg : memA b l mk ⊆ rowsOf .a32) (hb : b < 2) (hl : l < 2) {load : Bool} (hm : m.wfWord (.a32 c) load = true)
    (hi : .a32 = isaOf (mk (.a32 c) rd m)) : Encodes (encMem b l sh s sz d (.a32 c) rd m) (mk (.a32 c) rd m) := by
  cases m with
  | aImm idx u n i =>
    cases idx
    · exact encodes_of_nth 0 hg hi (by simp [pMemImm, cnd, hb, hl, Idx.p, Idx.w])
    · exact encodes_of_nth 2 hg hi (by simp [pMemImm, cnd, hb, hl, Idx.p, Idx.w])
    · exact encodes_of_nth 4 hg hi (by simp [pMemImm, cnd, hb, hl, Idx.p, Idx.w])
  | aReg idx u n r t k =>
    cases idx
    · exact encodes_of_nth 1 hg hi (by simp [pMemReg, cnd, hb, hl, Idx.p, Idx.w])
    · exact encodes_of_nth 3 hg hi (by simp [pMemReg, cnd, hb, hl, Idx.p, Idx.w])
    · exact encodes_of_nth 5 hg hi (by simp [pMemReg, cnd, hb, hl, Idx.p, Idx.w])
  | _ => simp [MemForm.wfWord, Enc.isThumb] at hm

theorem fits_imm8_hi (p : List Seg) (x : BitVec 8) (xs : List Nat) :
    fits (.f 4 :: p) (x.toNat / 16 :: xs) = fits p xs := fits_part 4 _ p xs (by omega)

theorem fits_imm8_lo (p : List Seg) (n : Nat) (xs : List Nat) :
    fits (.f 4 :: p) (n % 16 :: xs) = fits p xs := fits_part 4 _ p xs (by omega)

/-- The two halves of an A32 8-bit offset. -/
theorem imm8_halves (x : BitVec 8) : BitVec.ofNat 8 (x.toNat / 16 * 16 + x.toNat % 16) = x := by
  rw [Nat.div_add_mod' x.toNat 16]
  simp

/-- The rows of a halfword or signed load or store in A32. -/
theorem encodes_memX {b l sh s sz : Nat} {d : Seg} {c : Cond} {rd : Reg} {m : MemForm} {mk : Enc → Reg → MemForm → Instr}
    (hg : memX l sh mk ⊆ rowsOf .a32) (hs : sh < 4) (hl : l < 2) {load : Bool} (hm : m.wfHalf (.a32 c) load = true)
    (hi : .a32 = isaOf (mk (.a32 c) rd m)) : Encodes (encMem b l sh s sz d (.a32 c) rd m) (mk (.a32 c) rd m) := by
  cases m with
  | aImm8 idx u n i =>
    have hb := imm8_halves i
    cases idx
    · exact encodes_of_nth 0 hg hi (by simp [pMemImm8, cnd, hs, hl, Idx.p, Idx.w, fits_imm8_hi, fits_imm8_lo])
        (hb := by simp [hb])
    · exact encodes_of_nth 2 hg hi (by simp [pMemImm8, cnd, hs, hl, Idx.p, Idx.w, fits_imm8_hi, fits_imm8_lo])
        (hb := by simp [hb])
    · exact encodes_of_nth 4 hg hi (by simp [pMemImm8, cnd, hs, hl, Idx.p, Idx.w, fits_imm8_hi, fits_imm8_lo])
        (hb := by simp [hb])
  | aReg0 idx u n r =>
    cases idx
    · exact encodes_of_nth 1 hg hi (by simp [pMemReg0, cnd, hs, hl, Idx.p, Idx.w])
    · exact encodes_of_nth 3 hg hi (by simp [pMemReg0, cnd, hs, hl, Idx.p, Idx.w])
    · exact encodes_of_nth 5 hg hi (by simp [pMemReg0, cnd, hs, hl, Idx.p, Idx.w])
  | _ => simp [MemForm.wfHalf, Enc.isThumb] at hm

/-- The T32 forms a load or store has (R476). -/
def thumbForm (load : Bool) : MemForm → Bool
  | .tImm12 rn _ => rn != 15#4
  | .tImm8 idx add rn _ => rn != 15#4 && !(idx == .offset && add)
  | .tReg rn _ _ => rn != 15#4
  | .tLit _ _ => load
  | _ => false

theorem thumbForm_of_wfWord (load : Bool) (m : MemForm) (h : m.wfWord .thumb load = true) : thumbForm load m = true := by
  cases m <;> simp_all [MemForm.wfWord, thumbForm, Enc.isThumb]

theorem thumbForm_of_wfHalf (load : Bool) (m : MemForm) (h : m.wfHalf .thumb load = true) : thumbForm load m = true := by
  cases m <;> simp_all [MemForm.wfHalf, thumbForm, Enc.isThumb]

/-- The rows of a load or store in T32; `hd` is what the Rd segment asks, `hlit` the literal row of a load. -/
theorem encodes_memT {b l sh s sz : Nat} {d : Seg} {rd : Reg} {m : MemForm} {mk : Enc → Reg → MemForm → Instr}
    {load : Bool} (hg : memT s sz l d mk ⊆ rowsOf .t32)
    (hlit : load = true → memLit s sz d mk ∈ rowsOf .t32) (hs : s < 2) (hz : sz < 4) (hl : l < 2)
    (hd : ∀ p xs, fits (d :: p) (rd.toNat :: xs) = fits p xs) (hm : thumbForm load m = true)
    (hi : .t32 = isaOf (mk .thumb rd m)) : Encodes (encMem b l sh s sz d .thumb rd m) (mk .thumb rd m) := by
  cases m with
  | tImm12 n i =>
    have hn : n ≠ 15#4 := by simpa [thumbForm] using hm
    exact encodes_of_nth 0 hg hi (by simp [tMem12, hs, hz, hl, hd, fits_fx, reg_toNat_eq_pc, hn])
  | tImm8 idx u n i =>
    have hn : n ≠ 15#4 := by simp_all [thumbForm]
    cases idx with
    | offset =>
      have hu : u = false := by simpa [thumbForm, hn] using hm
      subst hu
      exact encodes_of_nth 1 hg hi (by simp [tMem8N, hs, hz, hl, hd, fits_fx, reg_toNat_eq_pc, hn])
    | pre => exact encodes_of_nth 2 hg hi (by simp [tMem8, hs, hz, hl, hd, fits_fx, reg_toNat_eq_pc, hn])
    | post => exact encodes_of_nth 3 hg hi (by simp [tMem8, hs, hz, hl, hd, fits_fx, reg_toNat_eq_pc, hn])
  | tReg n r k =>
    have hn : n ≠ 15#4 := by simpa [thumbForm] using hm
    exact encodes_of_nth 4 hg hi (by simp [tMemReg, hs, hz, hl, hd, fits_fx, reg_toNat_eq_pc, hn])
  | tLit u i =>
    exact ⟨hi, by simp [encMem, tMemLit, hs, hz, hd], _, hlit hm, rfl, by simp [encMem, memLit]⟩
  | _ => simp [thumbForm] at hm

/-- The rows of a `T` instruction: A32 word or byte. -/
theorem encodes_memAT {b l sh s sz lT : Nat} {c : Cond} {rd : Reg} {m : MemFormT} {mk : Enc → Reg → MemFormT → Instr}
    (hg : memAT b l mk ⊆ rowsOf .a32) (hb : b < 2) (hl : l < 2) (hm : m.wfWord (.a32 c) = true)
    (hi : .a32 = isaOf (mk (.a32 c) rd m)) : Encodes (encMemT b l sh s sz lT (.a32 c) rd m) (mk (.a32 c) rd m) := by
  cases m with
  | aImm u n i => exact encodes_of_nth 0 hg hi (by simp [pMemImm, cnd, hb, hl])
  | aReg u n r t k => exact encodes_of_nth 1 hg hi (by simp [pMemReg, cnd, hb, hl])
  | _ => simp [MemFormT.wfWord, Enc.isThumb] at hm

/-- The rows of a `T` instruction: A32 halfword or signed. -/
theorem encodes_memXT {b l sh s sz lT : Nat} {c : Cond} {rd : Reg} {m : MemFormT} {mk : Enc → Reg → MemFormT → Instr}
    (hg : memXT l sh mk ⊆ rowsOf .a32) (hs : sh < 4) (hl : l < 2) (hm : m.wfHalf (.a32 c) = true)
    (hi : .a32 = isaOf (mk (.a32 c) rd m)) : Encodes (encMemT b l sh s sz lT (.a32 c) rd m) (mk (.a32 c) rd m) := by
  cases m with
  | aImm8 u n i =>
    exact encodes_of_nth 0 hg hi (by simp [pMemImm8, cnd, hs, hl, fits_imm8_hi, fits_imm8_lo])
      (hb := by simp [imm8_halves])
  | aReg0 u n r => exact encodes_of_nth 1 hg hi (by simp [pMemReg0, cnd, hs, hl])
  | _ => simp [MemFormT.wfHalf, Enc.isThumb] at hm

/-- The row of a `T` instruction in T32, which has one form. -/
theorem encodes_memTT {b l sh s sz lT : Nat} {rd : Reg} {n : Reg} {i : BitVec 8} {mk : Enc → Reg → MemFormT → Instr}
    (hg : memTT s sz lT mk ∈ rowsOf .t32) (hs : s < 2) (hz : sz < 4) (hl : lT < 2) (hn : n ≠ 15#4)
    (hi : .t32 = isaOf (mk .thumb rd (.tImm8 n i))) :
    Encodes (encMemT b l sh s sz lT .thumb rd (.tImm8 n i)) (mk .thumb rd (.tImm8 n i)) :=
  ⟨hi, by simp [encMemT, tMemT, hs, hz, hl, fits_fx, reg_toNat_eq_pc, hn], _, hg, rfl, by simp [encMemT, memTT]⟩

end Sys2Proof

namespace Sys2Proof
open Sys2Proof.Machine

/-! ### Data processing, loads and stores: both instruction sets -/

theorem rowsDpA_sub : rowsDpA ⊆ rowsOf .a32 := fun r h => by simp [rowsOf, rowsA32, h]
theorem rowsMemA_sub : rowsMemA ⊆ rowsOf .a32 := fun r h => by simp [rowsOf, rowsA32, h]
theorem rowsMemT_sub : rowsMemT ⊆ rowsOf .t32 := fun r h => by simp [rowsOf, rowsT32, h]
theorem rowsT16_sub : rowsT16 ⊆ rowsOf .t16 := fun _ h => h

/-- A shift type field that must not be ROR. -/
theorem fits_shift_fx (p : List Seg) (t : ShiftType) (xs : List Nat) (h : t ≠ .ror) :
    fits (.fx 2 3 :: p) (t.num :: xs) = fits p xs := by
  cases t <;> simp_all [fits, ShiftType.num]

/-- The high and the low part of a shift amount that must not be zero. -/
theorem fits_amount_fx (w n : Nat) (p : List Seg) (xs : List Nat) (h : n < 2 ^ w) (h0 : n ≠ 0) :
    fits (.fx w 0 :: p) (n :: xs) = fits p xs := by
  simp [fits, h, h0]

section
variable {e : Enc} {s : Bool} {rd rn rm : Reg} {o : Op2}

/-- AND, EOR, SUB, ADD. -/
theorem encodes_shared {opA opT : Nat} {mk : Enc → Bool → Reg → Reg → Op2 → Instr}
    (hw : (o.wf e && !(e.isThumb && rd == 15#4 && s)) = true)
    (hi : isaOf (mk e s rd rn o) = if e.isThumb then .t32 else .a32)
    (hA : dpA opA (fun c => mk (.a32 c)) ⊆ rowsDpA := by
      intro r hr; repeat first | exact hr | exact List.mem_append_right _ hr | refine List.mem_append_left _ ?_)
    (hT : dpT opT (mk .thumb) ⊆ rowsDpT := by
      intro r hr; repeat first | exact hr | exact List.mem_append_right _ hr | refine List.mem_append_left _ ?_)
    (hopA : opA < 16 := by decide) (hopT : opT < 16 := by decide) :
    Encodes (encDp opA opT .shared e s rd rn o) (mk e s rd rn o) := by
  cases e with
  | a32 c =>
    have ho : o.wf (.a32 c) = true := by simpa [Enc.isThumb] using hw
    exact encodes_dpA (mk := fun c => mk (.a32 c)) (List.Subset.trans hA rowsDpA_sub) hopA ho hi.symm
  | thumb =>
    simp only [Enc.isThumb, Bool.and_eq_true, Bool.not_eq_true', Bool.true_and] at hw
    exact encodes_dpT (mk := mk .thumb) (List.Subset.trans hT rowsDpT_sub) hopT hw.1 (by simpa using hw.2) hi.symm

/-- RSB, ADC, SBC, BIC. -/
theorem encodes_plain {opA opT : Nat} {mk : Enc → Bool → Reg → Reg → Op2 → Instr} (ho : o.wf e = true)
    (hi : isaOf (mk e s rd rn o) = if e.isThumb then .t32 else .a32)
    (hA : dpA opA (fun c => mk (.a32 c)) ⊆ rowsDpA := by
      intro r hr; repeat first | exact hr | exact List.mem_append_right _ hr | refine List.mem_append_left _ ?_)
    (hT : dpTn opT (.f 4) (mk .thumb) ⊆ rowsDpT := by
      intro r hr; repeat first | exact hr | exact List.mem_append_right _ hr | refine List.mem_append_left _ ?_)
    (hopA : opA < 16 := by decide) (hopT : opT < 16 := by decide) :
    Encodes (encDp opA opT .plain e s rd rn o) (mk e s rd rn o) := by
  cases e with
  | a32 c => exact encodes_dpA (mk := fun c => mk (.a32 c)) (List.Subset.trans hA rowsDpA_sub) hopA ho hi.symm
  | thumb => exact encodes_dpT_plain (mk := mk .thumb) (List.Subset.trans hT rowsDpT_sub) hopT ho hi.symm

/-- ORR, whose T32 words with Rn = 1111 are MOV. -/
theorem encodes_orr (hw : (Instr.orr e s rd rn o).wellFormed = true) :
    Encodes (encDp 12 2 .noPcN e s rd rn o) (.orr e s rd rn o) := by
  simp only [Instr.wellFormed, Bool.and_eq_true, Bool.not_eq_true'] at hw
  obtain ⟨ho, hn⟩ := hw
  cases e with
  | a32 c =>
    have hg : dpA 12 (fun c => .orr (.a32 c)) ⊆ rowsDpA := fun r hr => by
      repeat first | exact hr | exact List.mem_append_right _ hr | refine List.mem_append_left _ ?_
    exact encodes_dpA (mk := fun c => .orr (.a32 c)) (List.Subset.trans hg rowsDpA_sub) (by decide) ho rfl
  | thumb =>
    have hg : dpTn 2 (.fx 4 15) (.orr .thumb) ⊆ rowsDpT := fun r hr => by
      repeat first | exact hr | exact List.mem_append_right _ hr | refine List.mem_append_left _ ?_
    exact encodes_dpT_noPcN (mk := .orr .thumb) (List.Subset.trans hg rowsDpT_sub) (by decide) ho
      (by simpa [Enc.isThumb] using hn) rfl

/-- An amount field other than 0, of a form that is not RRX. -/
theorem amount_ne_zero {sh : BitVec 5} (h : (Op2.reg rm .ror sh).isRrx = false) : sh.toNat ≠ 0 := by
  intro h0
  have : sh = 0#5 := BitVec.eq_of_toNat_eq h0
  simp [Op2.isRrx, this] at h

/-- MOV: its register forms are cut so that the words of RRX are left out (R138). -/
theorem encodes_mov (hw : (Instr.mov e s rd o).wellFormed = true) : Encodes (encMov e s rd o) (.mov e s rd o) := by
  simp only [Instr.wellFormed, Bool.and_eq_true, Bool.not_eq_true'] at hw
  obtain ⟨ho, hx⟩ := hw
  cases e with
  | a32 c =>
    cases o with
    | immA r i => exact encodes_of_find rowsDpA_sub (by simp [pMovImm, cnd])
    | immT i => simp [Op2.wf, Enc.isThumb] at ho
    | regReg m t r => exact encodes_of_find rowsDpA_sub (by simp [pMovRegReg, cnd])
    | reg m t sh =>
      cases t with
      | ror => exact encodes_of_find rowsMovA_sub (by simp [pMovReg, cnd, fits_fx, amount_ne_zero hx])
      | _ => exact encodes_of_find rowsMovA_sub (by simp [pMovReg, cnd, fits_shift_fx])
  | thumb =>
    cases o with
    | immA r i => simp [Op2.wf, Enc.isThumb] at ho
    | regReg m t r => simp [Op2.wf, Enc.isThumb] at ho
    | immT i => exact encodes_of_find rowsDpT_sub (by simp [tDpImm, fits_imm12_hi, fits_imm12_mid, fits_imm12_lo])
    | reg m t sh =>
      cases t with
      | ror =>
        by_cases h4 : sh.toNat / 4 = 0
        · have hlow : sh.toNat % 4 ≠ 0 := by
            have := amount_ne_zero hx
            omega
          have hrow : encMov .thumb s rd (.reg m .ror sh) =
              (.t32, tMovReg (.k 3 0) (.fx 2 0) (.k 2 3), [s.toNat, rd.toNat, sh.toNat % 4, m.toNat]) := if_pos h4
          have hlt : sh.toNat % 4 < 2 ^ 2 := by omega
          rw [hrow]
          exact encodes_of_find rowsDpT_sub (by simp [tMovReg, fits_amount_fx 2 _ _ _ hlt hlow])
            (hb := by simp [imm5Of_zero sh h4])
        · have hrow : encMov .thumb s rd (.reg m .ror sh) = (.t32, tMovReg (.fx 3 0) (.f 2) (.k 2 3),
              [s.toNat, sh.toNat / 4, rd.toNat, sh.toNat % 4, m.toNat]) := if_neg h4
          have hlt : sh.toNat / 4 < 2 ^ 3 := by omega
          rw [hrow]
          exact encodes_of_find rowsDpT_sub (by simp [tMovReg, fits_imm5_lo, fits_amount_fx 3 _ _ _ hlt h4])
      | _ => exact encodes_of_find rowsDpT_sub (by simp [tMovReg, fits_shift_fx, fits_imm5_hi, fits_imm5_lo])

/-- MVN (R342). -/
theorem encodes_mvn (ho : o.wf e = true) : Encodes (encMvn e s rd o) (.mvn e s rd o) := by
  cases e with
  | a32 c =>
    cases o with
    | immA r i => exact encodes_of_find rowsDpA_sub (by simp [pMovImm, cnd])
    | immT i => simp [Op2.wf, Enc.isThumb] at ho
    | regReg m t r => exact encodes_of_find rowsDpA_sub (by simp [pMovRegReg, cnd])
    | reg m t sh => exact encodes_of_find rowsMovA_sub (by simp [pMovReg, cnd])
  | thumb =>
    cases o with
    | immA r i => simp [Op2.wf, Enc.isThumb] at ho
    | regReg m t r => simp [Op2.wf, Enc.isThumb] at ho
    | immT i => exact encodes_of_find rowsDpT_sub (by simp [tDpImm, fits_imm12_hi, fits_imm12_mid, fits_imm12_lo])
    | reg m t sh => exact encodes_of_find rowsDpT_sub (by simp [tDpReg, fits_imm5_hi, fits_imm5_lo])

/-- The three T32 rows of SSAT or USAT with a right shift leave the amount 0 out (R269, R271). -/
theorem encodes_sat {opA opT : Nat} {mk : Enc → Reg → BitVec 5 → Bool → BitVec 5 → Reg → Instr} {q i : BitVec 5}
    {sh : Bool} (hw : (!(e.isThumb && sh && i == 0#5)) = true)
    (hi : isaOf (mk e rd q sh i rm) = if e.isThumb then .t32 else .a32)
    {rA r0 r1 r2 : Row}
    (hA : rowsMediaA.find? (fun r => r.pat == pSat opA) = some rA := by rfl)
    (h0 : rowsMediaT.find? (fun r => r.pat == tSat opT (.k 1 0) (.f 3) (.f 2)) = some r0 := by rfl)
    (h1 : rowsMediaT.find? (fun r => r.pat == tSat opT (.k 1 1) (.fx 3 0) (.f 2)) = some r1 := by rfl)
    (h2 : rowsMediaT.find? (fun r => r.pat == tSat opT (.k 1 1) (.k 3 0) (.fx 2 0)) = some r2 := by rfl)
    (bA : ∀ c, rA.build [Cond.num c, q.toNat, rd.toNat, i.toNat, sh.toNat, rm.toNat] = some (mk (.a32 c) rd q sh i rm) :=
      by simp)
    (b0 : r0.build [rm.toNat, i.toNat / 4, rd.toNat, i.toNat % 4, q.toNat] = some (mk .thumb rd q false i rm) :=
      by simp)
    (b1 : r1.build [rm.toNat, i.toNat / 4, rd.toNat, i.toNat % 4, q.toNat] = some (mk .thumb rd q true i rm) := by simp)
    (b2 : r2.build [rm.toNat, rd.toNat, i.toNat % 4, q.toNat] = some (mk .thumb rd q true (imm5Of 0 (i.toNat % 4)) rm) :=
      by simp)
    (hopA : opA < 128 := by decide) (hopT : opT < 8 := by decide) :
    Encodes (encSat opA opT e rd q sh i rm) (mk e rd q sh i rm) := by
  cases e with
  | a32 c => exact encodes_of_find rowsMediaA_sub (by simp [pSat, cnd, hopA]) hA (bA c) hi.symm
  | thumb =>
    cases sh with
    | false => exact encodes_of_find rowsMediaT_sub (by simp [tSat, hopT, fits_imm5_hi, fits_imm5_lo]) h0 b0 hi.symm
    | true =>
      have hne : i.toNat ≠ 0 := by
        intro h
        have : i = 0#5 := BitVec.eq_of_toNat_eq h
        simp [Enc.isThumb, this] at hw
      by_cases h4 : i.toNat / 4 = 0
      · have hlow : i.toNat % 4 ≠ 0 := by omega
        have hlt : i.toNat % 4 < 2 ^ 2 := by omega
        have hrow : encSat opA opT .thumb rd q true i rm = (.t32, tSat opT (.k 1 1) (.k 3 0) (.fx 2 0),
            [rm.toNat, rd.toNat, i.toNat % 4, q.toNat]) := if_pos h4
        rw [hrow]
        exact encodes_of_find rowsMediaT_sub (by simp [tSat, hopT, fits_amount_fx 2 _ _ _ hlt hlow]) h2
          (by rw [b2, imm5Of_zero i h4]) hi.symm
      · have hlt : i.toNat / 4 < 2 ^ 3 := by omega
        have hrow : encSat opA opT .thumb rd q true i rm = (.t32, tSat opT (.k 1 1) (.fx 3 0) (.f 2),
            [rm.toNat, i.toNat / 4, rd.toNat, i.toNat % 4, q.toNat]) := if_neg h4
        rw [hrow]
        exact encodes_of_find rowsMediaT_sub (by simp [tSat, hopT, fits_imm5_lo, fits_amount_fx 3 _ _ _ hlt h4])
          h1 b1 hi.symm

/-- Loads and stores of words and bytes; `hd` is what the T32 Rd segment asks. -/
theorem encodes_memWord {b l sh sg sz : Nat} {d : Seg} {m : MemForm} {mk : Enc → Reg → MemForm → Instr} {load : Bool}
    (hm : m.wfWord e load = true) (hd : e = .thumb → ∀ p xs, fits (d :: p) (rd.toNat :: xs) = fits p xs)
    (hi : isaOf (mk e rd m) = if e.isThumb then .t32 else .a32)
    (hlit : load = true → rowsMemT.find? (fun r => r.pat == tMemLit sg sz d) = some (memLit sg sz d mk))
    (hA : memA b l mk ⊆ rowsMemA := by
      intro r hr; repeat first | exact hr | exact List.mem_append_right _ hr | refine List.mem_append_left _ ?_)
    (hT : memT sg sz l d mk ⊆ rowsMemT := by
      intro r hr; repeat first | exact hr | exact List.mem_append_right _ hr | refine List.mem_append_left _ ?_)
    (hb : b < 2 := by decide) (hl : l < 2 := by decide) (hs : sg < 2 := by decide) (hz : sz < 4 := by decide) :
    Encodes (encMem b l sh sg sz d e rd m) (mk e rd m) := by
  cases e with
  | a32 c => exact encodes_memA (List.Subset.trans hA rowsMemA_sub) hb hl hm hi.symm
  | thumb =>
    exact encodes_memT (List.Subset.trans hT rowsMemT_sub)
      (fun h => rowsMemT_sub (List.mem_of_find?_eq_some (hlit h))) hs hz hl
        (hd rfl) (thumbForm_of_wfWord _ _ hm) hi.symm

/-- Loads and stores of halfwords and signed loads. -/
theorem encodes_memHalf {b l sh sg sz : Nat} {d : Seg} {m : MemForm} {mk : Enc → Reg → MemForm → Instr} {load : Bool}
    (hm : m.wfHalf e load = true) (hd : e = .thumb → ∀ p xs, fits (d :: p) (rd.toNat :: xs) = fits p xs)
    (hi : isaOf (mk e rd m) = if e.isThumb then .t32 else .a32)
    (hlit : load = true → rowsMemT.find? (fun r => r.pat == tMemLit sg sz d) = some (memLit sg sz d mk))
    (hA : memX l sh mk ⊆ rowsMemA := by
      intro r hr; repeat first | exact hr | exact List.mem_append_right _ hr | refine List.mem_append_left _ ?_)
    (hT : memT sg sz l d mk ⊆ rowsMemT := by
      intro r hr; repeat first | exact hr | exact List.mem_append_right _ hr | refine List.mem_append_left _ ?_)
    (hh : sh < 4 := by decide) (hl : l < 2 := by decide) (hs : sg < 2 := by decide) (hz : sz < 4 := by decide) :
    Encodes (encMem b l sh sg sz d e rd m) (mk e rd m) := by
  cases e with
  | a32 c => exact encodes_memX (List.Subset.trans hA rowsMemA_sub) hh hl hm hi.symm
  | thumb =>
    exact encodes_memT (List.Subset.trans hT rowsMemT_sub)
      (fun h => rowsMemT_sub (List.mem_of_find?_eq_some (hlit h))) hs hz hl
        (hd rfl) (thumbForm_of_wfHalf _ _ hm) hi.symm

/-- The T32 form of a `T` instruction (R476). -/
theorem MemFormT.eq_tImm8 {m : MemFormT} (hm : m.wfWord .thumb = true ∨ m.wfHalf .thumb = true) :
    ∃ n i, m = .tImm8 n i ∧ n ≠ 15#4 := by
  cases m <;> simp_all [MemFormT.wfWord, MemFormT.wfHalf, Enc.isThumb]

/-- `T` instructions of words and bytes. -/
theorem encodes_memWordT {b l sh sg sz lT : Nat} {m : MemFormT} {mk : Enc → Reg → MemFormT → Instr}
    (hm : m.wfWord e = true) (hi : isaOf (mk e rd m) = if e.isThumb then .t32 else .a32)
    (hA : memAT b l mk ⊆ rowsMemA := by
      intro r hr; repeat first | exact hr | exact List.mem_append_right _ hr | refine List.mem_append_left _ ?_)
    (hT : rowsMemT.find? (fun r => r.pat == tMemT sg sz lT) = some (memTT sg sz lT mk) := by rfl)
    (hb : b < 2 := by decide) (hl : l < 2 := by decide) (hs : sg < 2 := by decide) (hz : sz < 4 := by decide)
    (hlT : lT < 2 := by decide) : Encodes (encMemT b l sh sg sz lT e rd m) (mk e rd m) := by
  cases e with
  | a32 c => exact encodes_memAT (List.Subset.trans hA rowsMemA_sub) hb hl hm hi.symm
  | thumb =>
    obtain ⟨n, i, rfl, hn⟩ := MemFormT.eq_tImm8 (.inl hm)
    exact encodes_memTT (rowsMemT_sub (List.mem_of_find?_eq_some hT)) hs hz hlT hn hi.symm

/-- `T` instructions of halfwords and signed `T` loads. -/
theorem encodes_memHalfT {b l sh sg sz lT : Nat} {m : MemFormT} {mk : Enc → Reg → MemFormT → Instr}
    (hm : m.wfHalf e = true) (hi : isaOf (mk e rd m) = if e.isThumb then .t32 else .a32)
    (hA : memXT l sh mk ⊆ rowsMemA := by
      intro r hr; repeat first | exact hr | exact List.mem_append_right _ hr | refine List.mem_append_left _ ?_)
    (hT : rowsMemT.find? (fun r => r.pat == tMemT sg sz lT) = some (memTT sg sz lT mk) := by rfl)
    (hh : sh < 4 := by decide) (hl : l < 2 := by decide) (hs : sg < 2 := by decide) (hz : sz < 4 := by decide)
    (hlT : lT < 2 := by decide) : Encodes (encMemT b l sh sg sz lT e rd m) (mk e rd m) := by
  cases e with
  | a32 c => exact encodes_memXT (List.Subset.trans hA rowsMemA_sub) hh hl hm hi.symm
  | thumb =>
    obtain ⟨n, i, rfl, hn⟩ := MemFormT.eq_tImm8 (.inr hm)
    exact encodes_memTT (rowsMemT_sub (List.mem_of_find?_eq_some hT)) hs hz hlT hn hi.symm

/-- The T3 encoding of B, whose condition field three rows share out (R422). -/
theorem encodes_b3 {c : Cond} {j1 j2 : Bool} {i : BitVec 6} {l : BitVec 11} (hc : c ≠ .al) :
    Encodes (encB3 c s j1 j2 i l) (.b (.t3 c s j1 j2 i l)) := by
  have hlt : c.num < 14 := by revert hc; cases c <;> decide
  unfold encB3
  split
  · rename_i h8
    exact encodes_of_find rowsSysT_sub (by simp [tB3, fits_part 3 c.num _ _ h8])
  · rename_i h8
    split
    · rename_i h12
      have hpart : c.num - 8 < 2 ^ 2 := by omega
      exact encodes_of_find rowsSysT_sub (by simp [tB3, fits_part 2 _ _ _ hpart])
        (hb := by simp [Nat.add_sub_cancel' (Nat.le_of_not_lt h8)])
    · rename_i h12
      have hpart : c.num - 12 < 2 ^ 1 := by omega
      exact encodes_of_find rowsSysT_sub (by simp [tB3, fits_part 1 _ _ _ hpart])
        (hb := by simp [Nat.add_sub_cancel' (Nat.le_of_not_lt h12)])

end
end Sys2Proof

namespace Sys2Proof
open Sys2Proof.Machine

/-- The two rows of a parallel instruction, found by their patterns. -/
theorem encodes_parallel {pa oa pt ot : Nat} {e : Enc} {rd rn rm : Reg} {mk : Enc → Reg → Reg → Reg → Instr}
    (hi : isaOf (mk e rd rn rm) = if e.isThumb then .t32 else .a32)
    (hA : rowsParA.find? (fun r => r.pat == pMedia (96 + pa) oa) = some (parA pa oa mk) := by rfl)
    (hT : rowsParT.find? (fun r => r.pat == tReg (8 + ot) pt) = some (parT pt ot mk) := by rfl)
    (hpa : pa < 8 := by decide) (hoa : oa < 8 := by decide) (hpt : pt < 8 := by decide) (hot : ot < 8 := by decide) :
    Encodes (encPar pa oa pt ot e rd rn rm) (mk e rd rn rm) :=
  encodes_par (rowsParA_sub (List.mem_of_find?_eq_some hA)) (rowsParT_sub (List.mem_of_find?_eq_some hT)) hpa hoa hpt hot
    hi

/-- A segment that takes any register. -/
theorem fits_any_reg (rd : Reg) (p : List Seg) (xs : List Nat) : fits (.f 4 :: p) (rd.toNat :: xs) = fits p xs :=
  fits_f 4 p rd xs

/-- A segment that takes any register but R15, of an instruction whose T32 form refuses R15. -/
theorem fits_noPc {e : Enc} {rd : Reg} (h : (!(e.isThumb && rd == 15#4)) = true) (he : e = .thumb) (p : List Seg)
    (xs : List Nat) : fits (.fx 4 15 :: p) (rd.toNat :: xs) = fits p xs := by
  subst he
  have hd : rd ≠ 15#4 := by simpa [Enc.isThumb] using h
  exact fits_fx 4 15 p rd xs (by simpa [reg_toNat_eq_pc] using hd)

/-- A field that must not be zero. -/
theorem toNat_ne_zero {w : Nat} {x : BitVec w} (h : x ≠ 0#w) : x.toNat ≠ 0 :=
  fun h0 => h (BitVec.eq_of_toNat_eq (by simpa using h0))

theorem mode_toNat_eq_zero (m : BitVec 5) : m.toNat = 0 ↔ m = 0#5 :=
  ⟨fun h => BitVec.eq_of_toNat_eq h, fun h => h ▸ rfl⟩

theorem fits_imm16_hi (p : List Seg) (x : BitVec 16) (xs : List Nat) :
    fits (.f 4 :: p) (x.toNat / 4096 :: xs) = fits p xs := fits_part 4 _ p xs (by omega)

theorem fits_imm16_lo (p : List Seg) (n : Nat) (xs : List Nat) :
    fits (.f 12 :: p) (n % 4096 :: xs) = fits p xs := fits_part 12 _ p xs (by omega)

theorem fits_imm16_bit (p : List Seg) (n : Nat) (xs : List Nat) :
    fits (.f 1 :: p) (n / 2048 % 2 :: xs) = fits p xs := fits_part 1 _ p xs (by omega)

/-- imm4 : imm12 of an A32 16-bit immediate (R117). -/
theorem imm16_of_imm4 (x : BitVec 16) : BitVec.ofNat 16 (x.toNat / 4096 * 4096 + x.toNat % 4096) = x := by
  rw [Nat.div_add_mod']
  simp

/-- imm4 : i : imm3 : imm8 of a T32 16-bit immediate (R118). -/
theorem imm16_of_fields (x : BitVec 16) : BitVec.ofNat 16 (x.toNat / 4096 * 4096 + x.toNat / 2048 % 2 * 2048 +
    x.toNat / 256 % 8 * 256 + x.toNat % 256) = x := by
  apply BitVec.eq_of_toNat_eq
  rw [BitVec.toNat_ofNat]
  omega

/-- Every well-formed instruction has a row of the table that encodes it (R114). -/
theorem encodes_encodeRow (i : Instr) (h : i.wellFormed = true) : Encodes (encodeRow i) i := by
  cases i with
  | and e s rd rn o => exact encodes_shared h rfl
  | eor e s rd rn o => exact encodes_shared h rfl
  | sub e s rd rn o => exact encodes_shared h rfl
  | rsb e s rd rn o => exact encodes_plain h rfl
  | add e s rd rn o => exact encodes_shared h rfl
  | adc e s rd rn o => exact encodes_plain h rfl
  | sbc e s rd rn o => exact encodes_plain h rfl
  | orr e s rd rn o => exact encodes_orr h
  | bic e s rd rn o => exact encodes_plain h rfl
  | rsc c s rd rn o =>
    have hrow : encodeRow (.rsc c s rd rn o) = encDp 7 0 .plain (.a32 c) s rd rn o := rfl
    rw [hrow]
    exact encodes_dpA (mk := .rsc) (List.Subset.trans (fun r hr => by
      repeat first | exact hr | exact List.mem_append_right _ hr | refine List.mem_append_left _ ?_) rowsDpA_sub)
      (by decide) h rfl
  | orn s rd rn o =>
    simp only [Instr.wellFormed, Bool.and_eq_true, bne_iff_ne] at h
    have hrow : encodeRow (.orn s rd rn o) = encDp 0 3 .noPcN .thumb s rd rn o := rfl
    rw [hrow]
    exact encodes_dpT_noPcN (mk := .orn) (List.Subset.trans (fun r hr => by
      repeat first | exact hr | exact List.mem_append_right _ hr | refine List.mem_append_left _ ?_) rowsDpT_sub)
      (by decide) h.1 h.2 rfl
  | tst e rn o =>
    exact encodes_test (mk := .tst) (List.Subset.trans (fun r hr => by
      repeat first | exact hr | exact List.mem_append_right _ hr | refine List.mem_append_left _ ?_) rowsDpA_sub)
      (List.Subset.trans (fun r hr => by
      repeat first | exact hr | exact List.mem_append_right _ hr | refine List.mem_append_left _ ?_) rowsDpT_sub)
      (by decide) (by decide) h rfl
  | teq e rn o =>
    exact encodes_test (mk := .teq) (List.Subset.trans (fun r hr => by
      repeat first | exact hr | exact List.mem_append_right _ hr | refine List.mem_append_left _ ?_) rowsDpA_sub)
      (List.Subset.trans (fun r hr => by
      repeat first | exact hr | exact List.mem_append_right _ hr | refine List.mem_append_left _ ?_) rowsDpT_sub)
      (by decide) (by decide) h rfl
  | cmp e rn o =>
    exact encodes_test (mk := .cmp) (List.Subset.trans (fun r hr => by
      repeat first | exact hr | exact List.mem_append_right _ hr | refine List.mem_append_left _ ?_) rowsDpA_sub)
      (List.Subset.trans (fun r hr => by
      repeat first | exact hr | exact List.mem_append_right _ hr | refine List.mem_append_left _ ?_) rowsDpT_sub)
      (by decide) (by decide) h rfl
  | cmn e rn o =>
    exact encodes_test (mk := .cmn) (List.Subset.trans (fun r hr => by
      repeat first | exact hr | exact List.mem_append_right _ hr | refine List.mem_append_left _ ?_) rowsDpA_sub)
      (List.Subset.trans (fun r hr => by
      repeat first | exact hr | exact List.mem_append_right _ hr | refine List.mem_append_left _ ?_) rowsDpT_sub)
      (by decide) (by decide) h rfl
  | mov e s rd o => exact encodes_mov h
  | mvn e s rd o => exact encodes_mvn h
  | rrx e s rd rm =>
    cases e with
    | a32 c => exact encodes_of_find rowsMovA_sub (by simp [pMovReg, cnd])
    | thumb => exact encodes_of_find rowsDpT_sub (by simp [tMovReg])
  | adr add rd imm12 =>
    cases add with
    | false => exact encodes_of_find rowsImmT_sub (by simp [tPlain, fits_imm12_hi, fits_imm12_mid, fits_imm12_lo])
    | true => exact encodes_of_find rowsImmT_sub (by simp [tPlain, fits_imm12_hi, fits_imm12_mid, fits_imm12_lo])
  | subsPcLr imm8 => exact encodes_of_find rowsImmT_sub (by simp [tSubs])
  | lsl s rd rm rs => exact encodes_of_find rowsImmT_sub (by simp [tShift])
  | lsr s rd rm rs => exact encodes_of_find rowsImmT_sub (by simp [tShift])
  | asr s rd rm rs => exact encodes_of_find rowsImmT_sub (by simp [tShift])
  | ror s rd rm rs => exact encodes_of_find rowsImmT_sub (by simp [tShift])
  | movw e rd imm16 =>
    cases e with
    | a32 c =>
      exact encodes_of_find rowsMovA_sub (by simp [pImm16, cnd, fits_imm16_hi, fits_imm16_lo])
        (hb := by simp [imm16_of_imm4])
    | thumb =>
      exact encodes_of_find rowsImmT_sub (by simp [tPlain, fits_imm16_hi, fits_imm16_bit, fits_imm12_mid,
        fits_imm12_lo])
        (hb := by simp [imm16_of_fields])
  | movt e rd imm16 =>
    cases e with
    | a32 c =>
      exact encodes_of_find rowsMovA_sub (by simp [pImm16, cnd, fits_imm16_hi, fits_imm16_lo])
        (hb := by simp [imm16_of_imm4])
    | thumb =>
      exact encodes_of_find rowsImmT_sub (by simp [tPlain, fits_imm16_hi, fits_imm16_bit, fits_imm12_mid,
        fits_imm12_lo])
        (hb := by simp [imm16_of_fields])
  | addw rd rn imm12 =>
    have hn : rn ≠ 15#4 := by simpa [Instr.wellFormed] using h
    exact encodes_of_find rowsImmT_sub (by simp [tPlain, fits_imm12_hi, fits_imm12_mid, fits_imm12_lo, fits_fx,
      reg_toNat_eq_pc, hn])
  | subw rd rn imm12 =>
    have hn : rn ≠ 15#4 := by simpa [Instr.wellFormed] using h
    exact encodes_of_find rowsImmT_sub (by simp [tPlain, fits_imm12_hi, fits_imm12_mid, fits_imm12_lo, fits_fx,
      reg_toNat_eq_pc, hn])
  | qadd e rd rm rn =>
    cases e with
    | a32 c => exact encodes_of_find rowsMediaA_sub (by simp [pSatAdd, cnd])
    | thumb => exact encodes_of_find rowsMediaT_sub (by simp [tReg])
  | qsub e rd rm rn =>
    cases e with
    | a32 c => exact encodes_of_find rowsMediaA_sub (by simp [pSatAdd, cnd])
    | thumb => exact encodes_of_find rowsMediaT_sub (by simp [tReg])
  | qdadd e rd rm rn =>
    cases e with
    | a32 c => exact encodes_of_find rowsMediaA_sub (by simp [pSatAdd, cnd])
    | thumb => exact encodes_of_find rowsMediaT_sub (by simp [tReg])
  | qdsub e rd rm rn =>
    cases e with
    | a32 c => exact encodes_of_find rowsMediaA_sub (by simp [pSatAdd, cnd])
    | thumb => exact encodes_of_find rowsMediaT_sub (by simp [tReg])
  | sadd16 e rd rn rm => exact encodes_parallel rfl
  | qadd16 e rd rn rm => exact encodes_parallel rfl
  | shadd16 e rd rn rm => exact encodes_parallel rfl
  | uadd16 e rd rn rm => exact encodes_parallel rfl
  | uqadd16 e rd rn rm => exact encodes_parallel rfl
  | uhadd16 e rd rn rm => exact encodes_parallel rfl
  | ssub16 e rd rn rm => exact encodes_parallel rfl
  | qsub16 e rd rn rm => exact encodes_parallel rfl
  | shsub16 e rd rn rm => exact encodes_parallel rfl
  | usub16 e rd rn rm => exact encodes_parallel rfl
  | uqsub16 e rd rn rm => exact encodes_parallel rfl
  | uhsub16 e rd rn rm => exact encodes_parallel rfl
  | sadd8 e rd rn rm => exact encodes_parallel rfl
  | qadd8 e rd rn rm => exact encodes_parallel rfl
  | shadd8 e rd rn rm => exact encodes_parallel rfl
  | uadd8 e rd rn rm => exact encodes_parallel rfl
  | uqadd8 e rd rn rm => exact encodes_parallel rfl
  | uhadd8 e rd rn rm => exact encodes_parallel rfl
  | ssub8 e rd rn rm => exact encodes_parallel rfl
  | qsub8 e rd rn rm => exact encodes_parallel rfl
  | shsub8 e rd rn rm => exact encodes_parallel rfl
  | usub8 e rd rn rm => exact encodes_parallel rfl
  | uqsub8 e rd rn rm => exact encodes_parallel rfl
  | uhsub8 e rd rn rm => exact encodes_parallel rfl
  | sasx e rd rn rm => exact encodes_parallel rfl
  | qasx e rd rn rm => exact encodes_parallel rfl
  | shasx e rd rn rm => exact encodes_parallel rfl
  | uasx e rd rn rm => exact encodes_parallel rfl
  | uqasx e rd rn rm => exact encodes_parallel rfl
  | uhasx e rd rn rm => exact encodes_parallel rfl
  | ssax e rd rn rm => exact encodes_parallel rfl
  | qsax e rd rn rm => exact encodes_parallel rfl
  | shsax e rd rn rm => exact encodes_parallel rfl
  | usax e rd rn rm => exact encodes_parallel rfl
  | uqsax e rd rn rm => exact encodes_parallel rfl
  | uhsax e rd rn rm => exact encodes_parallel rfl
  | usad8 e rd rm rs =>
    cases e with
    | a32 c => exact encodes_of_find rowsMediaA_sub (by simp [pMedia4, cnd])
    | thumb => exact encodes_of_find rowsMulT_sub (by simp [tMul])
  | usada8 e rd rm rs rn =>
    have hn : rn ≠ 15#4 := by simpa [Instr.wellFormed] using h
    cases e with
    | a32 c => exact encodes_of_find rowsMediaA_sub (by simp [pMedia4, cnd, fits_fx, reg_toNat_eq_pc, hn])
    | thumb => exact encodes_of_find rowsMulT_sub (by simp [tMul, fits_fx, reg_toNat_eq_pc, hn])
  | ssat e rd satImm sh imm5 rm => exact encodes_sat (mk := .ssat) h rfl
  | usat e rd satImm sh imm5 rm => exact encodes_sat (mk := .usat) h rfl
  | ssat16 e rd satImm rm =>
    cases e with
    | a32 c => exact encodes_of_find rowsMediaA_sub (by simp [pSat16, cnd])
    | thumb => exact encodes_of_find rowsMediaT_sub (by simp [tSat16])
  | usat16 e rd satImm rm =>
    cases e with
    | a32 c => exact encodes_of_find rowsMediaA_sub (by simp [pSat16, cnd])
    | thumb => exact encodes_of_find rowsMediaT_sub (by simp [tSat16])
  | mul e s rd rm rs =>
    cases e with
    | a32 c => exact encodes_of_find rowsMulA_sub (by simp [pMul, cnd])
    | thumb =>
      obtain rfl : s = false := by simpa [Instr.wellFormed, Enc.isThumb] using h
      exact encodes_of_find rowsMulT_sub (by simp [tMul])
  | mla e s rd rm rs rn =>
    cases e with
    | a32 c => exact encodes_of_find rowsMulA_sub (by simp [pMul, cnd])
    | thumb =>
      obtain ⟨rfl, hn⟩ : s = false ∧ rn ≠ 15#4 := by simpa [Instr.wellFormed, Enc.isThumb] using h
      exact encodes_of_find rowsMulT_sub (by simp [tMul, fits_fx, reg_toNat_eq_pc, hn])
  | mls e rd rm rs rn =>
    cases e with
    | a32 c => exact encodes_of_find rowsMulA_sub (by simp [pMul, cnd])
    | thumb => exact encodes_of_find rowsMulT_sub (by simp [tMul])
  | umaal e rdLo rdHi rm rs =>
    cases e with
    | a32 c => exact encodes_of_find rowsMulA_sub (by simp [pMul, cnd])
    | thumb => exact encodes_of_find rowsMulT_sub (by simp [tLong])
  | umull e s rdLo rdHi rm rs =>
    cases e with
    | a32 c => exact encodes_of_find rowsMulA_sub (by simp [pMul, cnd])
    | thumb =>
      obtain rfl : s = false := by simpa [Instr.wellFormed, Enc.isThumb] using h
      exact encodes_of_find rowsMulT_sub (by simp [tLong])
  | umlal e s rdLo rdHi rm rs =>
    cases e with
    | a32 c => exact encodes_of_find rowsMulA_sub (by simp [pMul, cnd])
    | thumb =>
      obtain rfl : s = false := by simpa [Instr.wellFormed, Enc.isThumb] using h
      exact encodes_of_find rowsMulT_sub (by simp [tLong])
  | smull e s rdLo rdHi rm rs =>
    cases e with
    | a32 c => exact encodes_of_find rowsMulA_sub (by simp [pMul, cnd])
    | thumb =>
      obtain rfl : s = false := by simpa [Instr.wellFormed, Enc.isThumb] using h
      exact encodes_of_find rowsMulT_sub (by simp [tLong])
  | smlal e s rdLo rdHi rm rs =>
    cases e with
    | a32 c => exact encodes_of_find rowsMulA_sub (by simp [pMul, cnd])
    | thumb =>
      obtain rfl : s = false := by simpa [Instr.wellFormed, Enc.isThumb] using h
      exact encodes_of_find rowsMulT_sub (by simp [tLong])
  | smlaxy e x y rd rm rs rn =>
    cases e with
    | a32 c => exact encodes_of_find rowsMulA_sub (by simp [pHalfXY, cnd])
    | thumb =>
      have hn : rn ≠ 15#4 := by simpa [Instr.wellFormed, Enc.isThumb] using h
      exact encodes_of_find rowsMulT_sub (by simp [tMulXY, fits_fx, reg_toNat_eq_pc, hn])
  | smlawy e y rd rm rs rn =>
    cases e with
    | a32 c => exact encodes_of_find rowsMulA_sub (by simp [pHalfY, cnd])
    | thumb =>
      have hn : rn ≠ 15#4 := by simpa [Instr.wellFormed, Enc.isThumb] using h
      exact encodes_of_find rowsMulT_sub (by simp [tMulX, fits_fx, reg_toNat_eq_pc, hn])
  | smulwy e y rd rm rs =>
    cases e with
    | a32 c => exact encodes_of_find rowsMulA_sub (by simp [pHalfY, cnd])
    | thumb => exact encodes_of_find rowsMulT_sub (by simp [tMulX])
  | smlalxy e x y rdLo rdHi rm rs =>
    cases e with
    | a32 c => exact encodes_of_find rowsMulA_sub (by simp [pHalfXY, cnd])
    | thumb => exact encodes_of_find rowsMulT_sub (by simp [tLongXY])
  | smulxy e x y rd rm rs =>
    cases e with
    | a32 c => exact encodes_of_find rowsMulA_sub (by simp [pHalfXY, cnd])
    | thumb => exact encodes_of_find rowsMulT_sub (by simp [tMulXY])
  | smuad e x rd rm rs =>
    cases e with
    | a32 c => exact encodes_of_find rowsMulA_sub (by simp [pDual, cnd])
    | thumb => exact encodes_of_find rowsMulT_sub (by simp [tMulX])
  | smusd e x rd rm rs =>
    cases e with
    | a32 c => exact encodes_of_find rowsMulA_sub (by simp [pDual, cnd])
    | thumb => exact encodes_of_find rowsMulT_sub (by simp [tMulX])
  | smmul e x rd rm rs =>
    cases e with
    | a32 c => exact encodes_of_find rowsMulA_sub (by simp [pDual, cnd])
    | thumb => exact encodes_of_find rowsMulT_sub (by simp [tMulX])
  | smlad e x rd rm rs rn =>
    have hn : rn ≠ 15#4 := by simpa [Instr.wellFormed] using h
    cases e with
    | a32 c => exact encodes_of_find rowsMulA_sub (by simp [pDual, cnd, fits_fx, reg_toNat_eq_pc, hn])
    | thumb => exact encodes_of_find rowsMulT_sub (by simp [tMulX, fits_fx, reg_toNat_eq_pc, hn])
  | smlsd e x rd rm rs rn =>
    have hn : rn ≠ 15#4 := by simpa [Instr.wellFormed] using h
    cases e with
    | a32 c => exact encodes_of_find rowsMulA_sub (by simp [pDual, cnd, fits_fx, reg_toNat_eq_pc, hn])
    | thumb => exact encodes_of_find rowsMulT_sub (by simp [tMulX, fits_fx, reg_toNat_eq_pc, hn])
  | smmla e x rd rm rs rn =>
    have hn : rn ≠ 15#4 := by simpa [Instr.wellFormed] using h
    cases e with
    | a32 c => exact encodes_of_find rowsMulA_sub (by simp [pDual, cnd, fits_fx, reg_toNat_eq_pc, hn])
    | thumb => exact encodes_of_find rowsMulT_sub (by simp [tMulX, fits_fx, reg_toNat_eq_pc, hn])
  | smmls e x rd rm rs rn =>
    cases e with
    | a32 c => exact encodes_of_find rowsMulA_sub (by simp [pDual, cnd])
    | thumb => exact encodes_of_find rowsMulT_sub (by simp [tMulX])
  | smlald e x rdLo rdHi rm rs =>
    cases e with
    | a32 c => exact encodes_of_find rowsMulA_sub (by simp [pDual, cnd])
    | thumb => exact encodes_of_find rowsMulT_sub (by simp [tLongX])
  | smlsld e x rdLo rdHi rm rs =>
    cases e with
    | a32 c => exact encodes_of_find rowsMulA_sub (by simp [pDual, cnd])
    | thumb => exact encodes_of_find rowsMulT_sub (by simp [tLongX])
  | mia c rm rs => exact encodes_of_find rowsXsA_sub (by simp [pMia, cnd])
  | miaph c rm rs => exact encodes_of_find rowsXsA_sub (by simp [pMia, cnd])
  | miaxy c x y rm rs => exact encodes_of_find rowsXsA_sub (by simp [pMiaXY, cnd])
  | mar c rdLo rdHi => exact encodes_of_find rowsXsA_sub (by simp [pAcc, cnd])
  | mra c rdLo rdHi => exact encodes_of_find rowsXsA_sub (by simp [pAcc, cnd])
  | sdiv e rd rn rm =>
    cases e with
    | a32 c => exact encodes_of_find rowsMediaA_sub (by simp [pMedia4, cnd])
    | thumb => exact encodes_of_find rowsMulT_sub (by simp [tDiv])
  | udiv e rd rn rm =>
    cases e with
    | a32 c => exact encodes_of_find rowsMediaA_sub (by simp [pMedia4, cnd])
    | thumb => exact encodes_of_find rowsMulT_sub (by simp [tDiv])
  | clz e rd rm =>
    cases e with
    | a32 c => exact encodes_of_find rowsMediaA_sub (by simp [pOne, cnd])
    | thumb => exact encodes_of_find rowsMediaT_sub (by simp [tReg])
  | rev e rd rm =>
    cases e with
    | a32 c => exact encodes_of_find rowsMediaA_sub (by simp [pOne, cnd])
    | thumb => exact encodes_of_find rowsMediaT_sub (by simp [tReg])
  | rev16 e rd rm =>
    cases e with
    | a32 c => exact encodes_of_find rowsMediaA_sub (by simp [pOne, cnd])
    | thumb => exact encodes_of_find rowsMediaT_sub (by simp [tReg])
  | rbit e rd rm =>
    cases e with
    | a32 c => exact encodes_of_find rowsMediaA_sub (by simp [pOne, cnd])
    | thumb => exact encodes_of_find rowsMediaT_sub (by simp [tReg])
  | revsh e rd rm =>
    cases e with
    | a32 c => exact encodes_of_find rowsMediaA_sub (by simp [pOne, cnd])
    | thumb => exact encodes_of_find rowsMediaT_sub (by simp [tReg])
  | bfc e rd lsb msb =>
    cases e with
    | a32 c => exact encodes_of_find rowsBitA_sub (by simp [pBf, cnd])
    | thumb => exact encodes_of_find rowsMediaT_sub (by simp [tBf, fits_imm5_hi, fits_imm5_lo])
  | bfi e rd rn lsb msb =>
    have hn : rn ≠ 15#4 := by simpa [Instr.wellFormed] using h
    cases e with
    | a32 c => exact encodes_of_find rowsBitA_sub (by simp [pBf, cnd, fits_fx, reg_toNat_eq_pc, hn])
    | thumb => exact encodes_of_find rowsMediaT_sub (by simp [tBf, fits_imm5_hi, fits_imm5_lo, fits_fx,
      reg_toNat_eq_pc, hn])
  | sbfx e rd rn lsb widthm1 =>
    cases e with
    | a32 c => exact encodes_of_find rowsBitA_sub (by simp [pBf, cnd])
    | thumb => exact encodes_of_find rowsMediaT_sub (by simp [tBf, fits_imm5_hi, fits_imm5_lo])
  | ubfx e rd rn lsb widthm1 =>
    cases e with
    | a32 c => exact encodes_of_find rowsBitA_sub (by simp [pBf, cnd])
    | thumb => exact encodes_of_find rowsMediaT_sub (by simp [tBf, fits_imm5_hi, fits_imm5_lo])
  | pkhbt e rd rn rm imm5 =>
    cases e with
    | a32 c => exact encodes_of_find rowsBitA_sub (by simp [pPkh, cnd])
    | thumb => exact encodes_of_find rowsMediaT_sub (by simp [tPkh, fits_imm5_hi, fits_imm5_lo])
  | pkhtb e rd rn rm imm5 =>
    cases e with
    | a32 c => exact encodes_of_find rowsBitA_sub (by simp [pPkh, cnd])
    | thumb => exact encodes_of_find rowsMediaT_sub (by simp [tPkh, fits_imm5_hi, fits_imm5_lo])
  | sxth e rd rm rot =>
    cases e with
    | a32 c => exact encodes_of_find rowsBitA_sub (by simp [pExt, cnd])
    | thumb => exact encodes_of_find rowsMediaT_sub (by simp [tExt])
  | sxtb16 e rd rm rot =>
    cases e with
    | a32 c => exact encodes_of_find rowsBitA_sub (by simp [pExt, cnd])
    | thumb => exact encodes_of_find rowsMediaT_sub (by simp [tExt])
  | sxtb e rd rm rot =>
    cases e with
    | a32 c => exact encodes_of_find rowsBitA_sub (by simp [pExt, cnd])
    | thumb => exact encodes_of_find rowsMediaT_sub (by simp [tExt])
  | uxth e rd rm rot =>
    cases e with
    | a32 c => exact encodes_of_find rowsBitA_sub (by simp [pExt, cnd])
    | thumb => exact encodes_of_find rowsMediaT_sub (by simp [tExt])
  | uxtb16 e rd rm rot =>
    cases e with
    | a32 c => exact encodes_of_find rowsBitA_sub (by simp [pExt, cnd])
    | thumb => exact encodes_of_find rowsMediaT_sub (by simp [tExt])
  | uxtb e rd rm rot =>
    cases e with
    | a32 c => exact encodes_of_find rowsBitA_sub (by simp [pExt, cnd])
    | thumb => exact encodes_of_find rowsMediaT_sub (by simp [tExt])
  | sxtah e rd rn rm rot =>
    have hn : rn ≠ 15#4 := by simpa [Instr.wellFormed] using h
    cases e with
    | a32 c => exact encodes_of_find rowsBitA_sub (by simp [pExt, cnd, fits_fx, reg_toNat_eq_pc, hn])
    | thumb => exact encodes_of_find rowsMediaT_sub (by simp [tExt, fits_fx, reg_toNat_eq_pc, hn])
  | sxtab16 e rd rn rm rot =>
    have hn : rn ≠ 15#4 := by simpa [Instr.wellFormed] using h
    cases e with
    | a32 c => exact encodes_of_find rowsBitA_sub (by simp [pExt, cnd, fits_fx, reg_toNat_eq_pc, hn])
    | thumb => exact encodes_of_find rowsMediaT_sub (by simp [tExt, fits_fx, reg_toNat_eq_pc, hn])
  | sxtab e rd rn rm rot =>
    have hn : rn ≠ 15#4 := by simpa [Instr.wellFormed] using h
    cases e with
    | a32 c => exact encodes_of_find rowsBitA_sub (by simp [pExt, cnd, fits_fx, reg_toNat_eq_pc, hn])
    | thumb => exact encodes_of_find rowsMediaT_sub (by simp [tExt, fits_fx, reg_toNat_eq_pc, hn])
  | uxtah e rd rn rm rot =>
    have hn : rn ≠ 15#4 := by simpa [Instr.wellFormed] using h
    cases e with
    | a32 c => exact encodes_of_find rowsBitA_sub (by simp [pExt, cnd, fits_fx, reg_toNat_eq_pc, hn])
    | thumb => exact encodes_of_find rowsMediaT_sub (by simp [tExt, fits_fx, reg_toNat_eq_pc, hn])
  | uxtab16 e rd rn rm rot =>
    have hn : rn ≠ 15#4 := by simpa [Instr.wellFormed] using h
    cases e with
    | a32 c => exact encodes_of_find rowsBitA_sub (by simp [pExt, cnd, fits_fx, reg_toNat_eq_pc, hn])
    | thumb => exact encodes_of_find rowsMediaT_sub (by simp [tExt, fits_fx, reg_toNat_eq_pc, hn])
  | uxtab e rd rn rm rot =>
    have hn : rn ≠ 15#4 := by simpa [Instr.wellFormed] using h
    cases e with
    | a32 c => exact encodes_of_find rowsBitA_sub (by simp [pExt, cnd, fits_fx, reg_toNat_eq_pc, hn])
    | thumb => exact encodes_of_find rowsMediaT_sub (by simp [tExt, fits_fx, reg_toNat_eq_pc, hn])
  | sel e rd rn rm =>
    cases e with
    | a32 c => exact encodes_of_find rowsMediaA_sub (by simp [pMedia, cnd])
    | thumb => exact encodes_of_find rowsMediaT_sub (by simp [tReg])
  | it firstcond mask =>
    have hm : mask.toNat ≠ 0 := toNat_ne_zero (by simpa [Instr.wellFormed] using h)
    exact encodes_of_find rowsT16_sub (by simp [hIt, fits_fx, hm])
  | b t =>
    cases t with
    | a32 c i => exact encodes_of_find rowsSysA_sub (by simp [pBranch, cnd])
    | t3 c s j1 j2 i l => exact encodes_b3 (by simpa [Instr.wellFormed, BTarget.wf] using h)
    | t4 s j1 j2 i l => exact encodes_of_find rowsSysT_sub (by simp [tB4])
  | bl t =>
    cases t with
    | a32 c i => exact encodes_of_find rowsSysA_sub (by simp [pBranch, cnd])
    | t32 s j1 j2 i l => exact encodes_of_find rowsSysT_sub (by simp [tB4])
  | blxLabel t =>
    cases t with
    | a32 b i => exact encodes_of_find rowsSysA_sub (by simp [pBlx])
    | t32 s j1 j2 i l => exact encodes_of_find rowsSysT_sub (by simp [tBlx])
  | bx e rm =>
    cases e with
    | a32 c => exact encodes_of_find rowsSysA_sub (by simp [pBx, cnd])
    | thumb => exact encodes_of_find rowsT16_sub (by simp [hBx])
  | blxReg e rm =>
    cases e with
    | a32 c => exact encodes_of_find rowsSysA_sub (by simp [pBx, cnd])
    | thumb => exact encodes_of_find rowsT16_sub (by simp [hBx])
  | bxj e rm =>
    cases e with
    | a32 c => exact encodes_of_find rowsSysA_sub (by simp [pBx, cnd])
    | thumb => exact encodes_of_find rowsSysT_sub (by simp [tBxj])
  | cbz i imm5 rn => exact encodes_of_find rowsT16_sub (by simp [hCbz])
  | cbnz i imm5 rn => exact encodes_of_find rowsT16_sub (by simp [hCbz])
  | tbb rn rm => exact encodes_of_find rowsSysT_sub (by simp [tTb])
  | tbh rn rm => exact encodes_of_find rowsSysT_sub (by simp [tTb])
  | mrs e spsr rd =>
    cases e with
    | a32 c => exact encodes_of_find rowsSysA_sub (by simp [pMrs, cnd])
    | thumb => exact encodes_of_find rowsSysT_sub (by simp [tMrs])
  | msrReg e spsr mask rm =>
    have hm : mask.toNat ≠ 0 := toNat_ne_zero (by simpa [Instr.wellFormed] using h)
    cases e with
    | a32 c => exact encodes_of_find rowsSysA_sub (by simp [pMsrReg, cnd, fits_fx, hm])
    | thumb => exact encodes_of_find rowsSysT_sub (by simp [tMsr, fits_fx, hm])
  | msrImm c spsr mask rotate imm8 =>
    have hm : mask.toNat ≠ 0 := toNat_ne_zero (by simpa [Instr.wellFormed] using h)
    exact encodes_of_find rowsSysA_sub (by simp [pMsrImm, cnd, fits_fx, hm])
  | cpsie thumb m a i f mode =>
    cases thumb with
    | false => exact encodes_of_find rowsSysA_sub (by simp [pCpsI]) (hb := by simpa [Instr.wellFormed,
      mode_toNat_eq_zero, or_iff_not_imp_left] using h)
    | true => exact encodes_of_find rowsSysT_sub (by simp [tCpsI]) (hb := by simpa [Instr.wellFormed,
      mode_toNat_eq_zero, or_iff_not_imp_left] using h)
  | cpsid thumb m a i f mode =>
    cases thumb with
    | false => exact encodes_of_find rowsSysA_sub (by simp [pCpsI]) (hb := by simpa [Instr.wellFormed,
      mode_toNat_eq_zero, or_iff_not_imp_left] using h)
    | true => exact encodes_of_find rowsSysT_sub (by simp [tCpsI]) (hb := by simpa [Instr.wellFormed,
      mode_toNat_eq_zero, or_iff_not_imp_left] using h)
  | cps thumb mode =>
    cases thumb with
    | false => exact encodes_of_find rowsSysA_sub (by simp [pCps])
    | true => exact encodes_of_find rowsSysT_sub (by simp [tCps])
  | setend thumb big =>
    cases thumb with
    | false => exact encodes_of_find rowsSysA_sub (by simp [pSetend])
    | true => exact encodes_of_find rowsT16_sub (by simp [hSetend])
  | ldr e rd m => exact encodes_memWord (mk := .ldr) h (fun _ => fits_any_reg rd) rfl (fun _ => rfl)
  | ldrb e rd m =>
    obtain ⟨hm, hd⟩ := Bool.and_eq_true_iff.1 h
    exact encodes_memWord (mk := .ldrb) hm (fits_noPc hd) rfl (fun _ => rfl)
  | ldrsb e rd m =>
    obtain ⟨hm, hd⟩ := Bool.and_eq_true_iff.1 h
    exact encodes_memHalf (mk := .ldrsb) hm (fits_noPc hd) rfl (fun _ => rfl)
  | ldrh e rd m =>
    obtain ⟨hm, hd⟩ := Bool.and_eq_true_iff.1 h
    exact encodes_memHalf (mk := .ldrh) hm (fits_noPc hd) rfl (fun _ => rfl)
  | ldrsh e rd m =>
    obtain ⟨hm, hd⟩ := Bool.and_eq_true_iff.1 h
    exact encodes_memHalf (mk := .ldrsh) hm (fits_noPc hd) rfl (fun _ => rfl)
  | str e rd m => exact encodes_memWord (mk := .str) h (fun _ => fits_any_reg rd) rfl nofun
  | strb e rd m => exact encodes_memWord (mk := .strb) h (fun _ => fits_any_reg rd) rfl nofun
  | strh e rd m => exact encodes_memHalf (mk := .strh) h (fun _ => fits_any_reg rd) rfl nofun
  | ldrt e rd m => exact encodes_memWordT (mk := .ldrt) h rfl
  | ldrbt e rd m => exact encodes_memWordT (mk := .ldrbt) h rfl
  | ldrsbt e rd m => exact encodes_memHalfT (mk := .ldrsbt) h rfl
  | ldrht e rd m => exact encodes_memHalfT (mk := .ldrht) h rfl
  | ldrsht e rd m => exact encodes_memHalfT (mk := .ldrsht) h rfl
  | strt e rd m => exact encodes_memWordT (mk := .strt) h rfl
  | strbt e rd m => exact encodes_memWordT (mk := .strbt) h rfl
  | strht e rd m => exact encodes_memHalfT (mk := .strht) h rfl

/-- Settles O57: every instruction's row encodes it, and no other row matches the word. -/
theorem decodeOfEncode : Obligations.DecodeOfEncode := by
  intro i h
  have hr := encodes_encodeRow i h
  have hc : encode i = some (Code.ofNat (encodeRow i).1 (assemble (encodeRow i).2.1 (encodeRow i).2.2)) := if_pos h
  refine ⟨_, hc, decodeCode_of_encodes hr, ?_, ?_⟩
  · rw [hr.isa]
    exact isThumb_of_isaOf i _
  · rw [hr.isa]
    exact size_of_isaOf i _

end Sys2Proof

end

section
/-! SUPPORT and PROOFS. What every instruction keeps (spec 10_state, 45_branch_it sections 1 and 2, 70_reset_and_hazards
section 4): each meaning is `perform` of a form read off the instruction and an effect that keeps what `Keeps` says. -/

namespace Sys2Proof.Machine

open Sys2Proof

/-! ### The form of an instruction -/

/-- Where an instruction may stand in an IT block. -/
def placeOf (i : Instr) : Place := if notInIt i then .never else if lastInIt i then .lastOnly else .anywhere

/-- What becomes of the PC and the IT state: the exception returns restore both, IT and the branches write one. -/
def flowOf : Instr → Flow
  | .it _ _ => .itself
  | .subsPcLr _ => .ret
  | .sub (.a32 _) true rd rn (.immA _ _) => if rd = 15#4 ∧ rn = 14#4 then .ret else .sequential
  | i => if writesPc i then .branch else .sequential

/-- The condition of its own that the T3 encoding of B has. -/
def ownOf : Instr → Option Cond
  | .b (.t3 c _ _ _ _ _) => some c
  | _ => none

/-- The form of an instruction whose feature is `f`. -/
def formOf (i : Instr) (f : Bool) : Form where
  enc := encodingOf i
  size := sizeOf2 i
  feature := f
  place := placeOf i
  flow := flowOf i
  own := ownOf i

/-! ### What an effect keeps -/

/-- What every CPSR write of an instruction in line keeps: the execution state, in User mode the mode and the masks
(R450), and the fields the processor lacks (R50). -/
structure CpsrKept (c : Config) (p q : Cpsr) : Prop where
  t : q.t = p.t := by simp
  it : q.it = p.it := by simp
  j : q.j = p.j := by simp
  user : p.mode = .usr → q.mode = p.mode ∧ q.a = p.a ∧ q.i = p.i ∧ q.f = p.f := by simp
  v5e : c.wf = true → c.haveV5E = false → q.q = p.q := by simp
  v6 : c.haveV6 = false → q.ge = p.ge ∧ q.e = p.e ∧ q.a = p.a := by simp

/-- The fields that no effect but a store, an accumulator write and an SPSR write touches. -/
structure Quiet (s u : State) : Prop where
  cfg : u.cfg = s.cfg := by simp
  stepNo : u.stepNo = s.stepNo := by simp
  mem : u.mem = s.mem := by simp
  ac : u.ac = s.ac := by simp
  fiq : u.spsrFiq = s.spsrFiq := by simp
  irq : u.spsrIrq = s.spsrIrq := by simp
  svc : u.spsrSvc = s.spsrSvc := by simp
  abt : u.spsrAbt = s.spsrAbt := by simp
  und : u.spsrUnd = s.spsrUnd := by simp

/-- What the effect leaves of the PC and the CPSR, by flow: in line it leaves the PC and the execution state, a branch
writes them only, a return takes the CPSR from a word, IT writes the IT state. -/
def FlowKept (s u : State) : Flow → Prop
  | .sequential => u.pc = s.pc ∧ CpsrKept s.cfg s.cpsr u.cpsr
  | .branch => u.cpsr = { s.cpsr with t := u.cpsr.t } ∧ (u.cpsr.t = true → s.cpsr.t = true ∨ s.cfg.haveThumb = true) ∧
      (pcAligned s = true → pcAligned u = true)
  | .ret => s.spsr ≠ none ∧ (∃ w m, u.cpsr = Cpsr.restored s.cfg w m) ∧ pcAligned u = true
  | .itself => u.pc = s.pc ∧ s.cfg.haveT2 = true ∧ s.cpsr.t = true ∧ u.cpsr = { s.cpsr with it := u.cpsr.it }

/-- Memory is as before, but for a store none of whose bytes is executable (R94). -/
def MemKept (i : Instr) (s u : State) : Prop :=
  u.mem = s.mem ∨ isStore i = true ∧ ∃ a w v, u.mem = (s.storeValue a w v).mem ∧
    (touched a w).any (executable s.cfg) = false

/-- What the effect of an instruction keeps. -/
structure Keeps (i : Instr) (s u : State) : Prop where
  cfg : u.cfg = s.cfg
  stepNo : u.stepNo = s.stepNo
  mem : MemKept i s u
  ac : writesAc i = false → u.ac = s.ac
  spsr : writesSpsr i = false → u.spsrFiq = s.spsrFiq ∧ u.spsrIrq = s.spsrIrq ∧ u.spsrSvc = s.spsrSvc ∧
    u.spsrAbt = s.spsrAbt ∧ u.spsrUnd = s.spsrUnd
  flow : FlowKept s u (flowOf i)

theorem Quiet.keeps {i : Instr} {s u : State} (h : Quiet s u) (hf : FlowKept s u (flowOf i)) : Keeps i s u :=
  ⟨h.cfg, h.stepNo, .inl h.mem, fun _ => h.ac, fun _ => ⟨h.fiq, h.irq, h.svc, h.abt, h.und⟩, hf⟩

/-- The meaning of `i` at `s` is `perform` of its form, where the feature `f` is present in full configurations, absent
for the wide Thumb encodings without Thumb-2 (R112), and the effect keeps what `Keeps` says. -/
def HasShape (i : Instr) (s : State) : Prop :=
  ∃ f k, exec i s = perform (formOf i f) s k ∧ (fullConfig s.cfg = true → f = true) ∧
    ((encodingOf i).isThumb = true → s.cfg.haveT2 = false → sizeOf2 i = 4#32 → (∀ t, i ≠ .bl t) →
      (∀ t, i ≠ .blxLabel t) → f = false) ∧
    ∀ u, f = true → (encodingOf i).isThumb = s.cpsr.t → k = .ok u → Keeps i s u

/-! ### Four-byte instructions in line -/

theorem formOf_eq_form4 {i : Instr} {f : Bool} {c : Config} (hs : sizeOf2 i = 4#32) (hp : placeOf i = .anywhere)
    (hw : flowOf i = .sequential) (ho : ownOf i = none) :
    form4 c (encodingOf i) f = formOf i (f && (!(encodingOf i).isThumb || c.haveT2)) := by
  simp [form4, formOf, hs, hp, hw, ho]

theorem fullConfig_haveT2 {c : Config} (h : fullConfig c = true) : c.haveT2 = true := by
  simp only [fullConfig, Bool.and_eq_true] at h
  simp [h]

/-- A four-byte instruction in line whose effect keeps what it must. -/
theorem hasShape_form4 {i : Instr} {s : State} {f : Bool} {k : Except Stop State}
    (hx : exec i s = perform (form4 s.cfg (encodingOf i) f) s k)
    (hk : ∀ u, f = true → k = .ok u → Keeps i s u)
    (hf : fullConfig s.cfg = true → f = true := by simp +contextual [fullConfig])
    (hs : sizeOf2 i = 4#32 := by rfl) (hp : placeOf i = .anywhere := by rfl) (hw : flowOf i = .sequential := by rfl)
    (ho : ownOf i = none := by rfl) : HasShape i s := by
  refine ⟨_, k, by rw [hx, formOf_eq_form4 hs hp hw ho], fun h => ?_, fun ht h2 _ _ _ => ?_, fun u h _ hu => ?_⟩
  · rw [hf h, fullConfig_haveT2 h]
    simp
  · simp [ht, h2]
  · exact hk u (Bool.and_eq_true_iff.1 h).1 hu

/-- The same, where the effect changes no more than registers, flags and masks. -/
theorem hasShape_inline {i : Instr} {s : State} {f : Bool} {k : Except Stop State}
    (hx : exec i s = perform (form4 s.cfg (encodingOf i) f) s k)
    (hk : ∀ u, f = true → k = .ok u → Quiet s u ∧ u.pc = s.pc ∧ CpsrKept s.cfg s.cpsr u.cpsr)
    (hf : fullConfig s.cfg = true → f = true := by simp +contextual [fullConfig])
    (hs : sizeOf2 i = 4#32 := by rfl) (hp : placeOf i = .anywhere := by rfl) (hw : flowOf i = .sequential := by rfl)
    (ho : ownOf i = none := by rfl) : HasShape i s :=
  hasShape_form4 hx (fun u h hu => (hk u h hu).1.keeps (hw ▸ (hk u h hu).2)) hf hs hp hw ho

end Sys2Proof.Machine
end

section
namespace Sys2Proof.Machine

open Sys2Proof

/-! ### Effects that write registers and flags -/

/-- What an effect in line keeps, where it is no store and writes neither the accumulator nor an SPSR. -/
def Inline (s u : State) : Prop := Quiet s u ∧ u.pc = s.pc ∧ CpsrKept s.cfg s.cpsr u.cpsr

theorem inline_setReg (s : State) (i : Reg) (v : Word) : Inline s (s.setReg i v) := ⟨{}, by simp, {}⟩

theorem inline_setPair (s : State) (lo hi : Reg) (v : BitVec 64) : Inline s (s.setPair lo hi v) := ⟨{}, by simp, {}⟩

/-- An effect that replaces the CPSR of a state that keeps everything. -/
theorem Inline.withFlags {s u : State} (h : Inline s u) (sf : Bool) {p : Cpsr} (hp : CpsrKept s.cfg s.cpsr p) :
    Inline s (u.withFlags sf p) := by
  cases sf
  · exact h
  · exact ⟨{ h.1 with }, h.2.1, hp⟩

theorem inline_refl (s : State) : Inline s s := ⟨{}, rfl, {}⟩

theorem cpsrKept_setNZC (c : Config) (p : Cpsr) (r : Word) (b : Bool) : CpsrKept c p (p.setNZC r b) := {}

theorem cpsrKept_setNZCV (c : Config) (p : Cpsr) (r : Word) (b d : Bool) : CpsrKept c p (p.setNZCV r b d) := {}

/-- Architecture v6 includes v5E. -/
theorem haveV5E_of_haveV6 {c : Config} (hw : c.wf = true) (h : c.haveV6 = true) : c.haveV5E = true := by
  simp only [Config.wf, Bool.and_eq_true, Bool.or_eq_true, Bool.not_eq_true'] at hw
  obtain ⟨⟨⟨⟨⟨⟨-, hJ⟩, hE⟩, -⟩, -⟩, -⟩, -⟩ := hw
  simpa [hJ.resolve_left (by simp [h])] using hE

/-- An instruction that may set Q exists only where Q does. -/
theorem inline_setRegQ {s : State} (i : Reg) (v : Word) (q : Bool)
    (h : s.cfg.wf = true → s.cfg.haveV5E = true) : Inline s (s.setRegQ i v q) :=
  ⟨{}, by simp, { v5e := fun hw hn => by simp [h hw] at hn }⟩

theorem inline_mulFlags32 {s u : State} (h : Inline s u) (r : Word) : Inline s (mulFlags32 u r) := by
  obtain ⟨hq, hpc, hc⟩ := h
  unfold mulFlags32
  split <;> exact ⟨{ hq with }, hpc, { hc with }⟩

theorem inline_mulFlags64 {s u : State} (h : Inline s u) (r : BitVec 64) : Inline s (mulFlags64 u r) := by
  obtain ⟨hq, hpc, hc⟩ := h
  unfold mulFlags64
  split <;> exact ⟨{ hq with }, hpc, { hc with }⟩

/-- GE is written only on processors that have it. -/
theorem inline_ge {s u : State} (h : Inline s u) (hv : s.cfg.haveV6 = true) (b : Bool) (g : BitVec 4) :
    Inline s (if b then { u with cpsr := { u.cpsr with ge := g } } else u) := by
  cases b
  · exact h
  · exact ⟨{ h.1 with }, h.2.1, { h.2.2 with v6 := fun hn => by simp [hv] at hn }⟩

theorem inline_writeBase (s : State) (b : Option (Reg × Word)) : Inline s (s.writeBase b) := ⟨{}, by simp, {}⟩

theorem Inline.setReg {s u : State} (h : Inline s u) (i : Reg) (v : Word) : Inline s (u.setReg i v) := by
  obtain ⟨hq, hpc, hc⟩ := h
  exact ⟨⟨by simp [hq.cfg], by simp [hq.stepNo], by simp [hq.mem], by simp [hq.ac], by simp [hq.fiq], by simp [hq.irq],
    by simp [hq.svc], by simp [hq.abt], by simp [hq.und]⟩, by simp [hpc], by simpa using hc⟩

/-! ### The shapes of the meanings in line -/

theorem hasShape_plainOp {i : Instr} {s : State} {f : Bool} {d r : List Reg} {g : State → State}
    (hg : f = true → Inline s (g s))
    (hx : exec i s = plainOp f (encodingOf i) d r s g := by unfold exec; exact rfl)
    (hf : fullConfig s.cfg = true → f = true := by simp +contextual [fullConfig])
    (hs : sizeOf2 i = 4#32 := by rfl) (hp : placeOf i = .anywhere := by rfl) (hw : flowOf i = .sequential := by rfl)
    (ho : ownOf i = none := by rfl) : HasShape i s := by
  refine hasShape_inline hx (fun u h hu => ?_) hf hs hp hw ho
  obtain ⟨hk, -⟩ := checked_eq_ok _ _ _ hu
  cases hk
  exact hg h

/-- Four-byte instructions in line with checked operands and an effect that always answers. -/
theorem hasShape_checked {i : Instr} {s u : State} {f : Bool} {l : List (Bool × Refusal)}
    (hu : f = true → Inline s u)
    (hx : exec i s = perform (form4 s.cfg (encodingOf i) f) s (checked l (.ok u)) := by unfold exec; exact rfl)
    (hf : fullConfig s.cfg = true → f = true := by simp +contextual [fullConfig])
    (hs : sizeOf2 i = 4#32 := by rfl) (hp : placeOf i = .anywhere := by rfl) (hw : flowOf i = .sequential := by rfl)
    (ho : ownOf i = none := by rfl) : HasShape i s := by
  refine hasShape_inline hx (fun u' h hu' => ?_) hf hs hp hw ho
  obtain ⟨hk, -⟩ := checked_eq_ok _ _ _ hu'
  cases hk
  exact hu h

/-- Data processing: the effect follows the value of `<Operand2>`. -/
theorem hasShape_op2 {i : Instr} {s : State} {f : Bool} {l : List (Bool × Refusal)} {o : Op2}
    {g : Word × Bool → State}
    (hg : ∀ v, Inline s (g v))
    (hx : exec i s = perform (form4 s.cfg (encodingOf i) f) s (checked l
      (match op2 s o with
       | .error x => .error x
       | .ok v => .ok (g v))) := by unfold exec; exact rfl)
    (hf : fullConfig s.cfg = true → f = true := by simp +contextual [fullConfig])
    (hs : sizeOf2 i = 4#32 := by rfl) (hp : placeOf i = .anywhere := by rfl) (hw : flowOf i = .sequential := by rfl)
    (ho : ownOf i = none := by rfl) : HasShape i s := by
  refine hasShape_inline hx (fun u h hu => ?_) hf hs hp hw ho
  obtain ⟨hk, -⟩ := checked_eq_ok _ _ _ hu
  cases ho2 : op2 s o with
  | error x => simp [ho2] at hk
  | ok v =>
    rw [ho2] at hk
    cases hk
    exact hg v

/-- Parallel instructions: registers, and GE where its kind writes it. -/
theorem inline_parallel {s : State} (hv : s.cfg.haveV6 = true) (rd : Reg) (v : Word) (b : Bool) (g : BitVec 4) :
    Inline s (if b then { s.setReg rd v with cpsr := { (s.setReg rd v).cpsr with ge := g } } else s.setReg rd v) :=
  inline_ge (inline_setReg s rd v) hv b g

/-- Loads: the base and the destination. -/
theorem hasShape_load {i : Instr} {s : State} {f priv sg : Bool} {l : List (Bool × Refusal)} {a : Address} {w : Width}
    {rd : Reg}
    (hx : exec i s = perform (form4 s.cfg (encodingOf i) f) s (checked l (loadEffect s priv a w sg rd)) :=
      by unfold exec; exact rfl)
    (hf : fullConfig s.cfg = true → f = true := by simp +contextual [fullConfig])
    (hs : sizeOf2 i = 4#32 := by rfl) (hp : placeOf i = .anywhere := by rfl) (hw : flowOf i = .sequential := by rfl)
    (ho : ownOf i = none := by rfl) : HasShape i s := by
  refine hasShape_inline hx (fun u h hu => ?_) hf hs hp hw ho
  obtain ⟨hk, -⟩ := checked_eq_ok _ _ _ hu
  unfold loadEffect at hk
  cases hr : memRead s priv a.addr w with
  | error x => simp [hr] at hk
  | ok v =>
    rw [hr] at hk
    cases hk
    exact (inline_writeBase s _).setReg _ _

/-- Stores: memory outside code, and the base. -/
theorem hasShape_store {i : Instr} {s : State} {f priv : Bool} {l : List (Bool × Refusal)} {a : Address} {w : Width}
    {rd : Reg}
    (hx : exec i s = perform (form4 s.cfg (encodingOf i) f) s (checked l (storeEffect s priv a w rd)) :=
      by unfold exec; exact rfl)
    (hst : isStore i = true := by rfl)
    (hf : fullConfig s.cfg = true → f = true := by simp +contextual [fullConfig])
    (hs : sizeOf2 i = 4#32 := by rfl) (hp : placeOf i = .anywhere := by rfl) (hw : flowOf i = .sequential := by rfl)
    (ho : ownOf i = none := by rfl) : HasShape i s := by
  refine hasShape_form4 hx (fun u h hu => ?_) hf hs hp hw ho
  obtain ⟨hk, -⟩ := checked_eq_ok _ _ _ hu
  unfold storeEffect at hk
  cases hr : memWrite s priv a.addr w (s.reg rd) with
  | error x => simp [hr] at hk
  | ok v =>
    rw [hr] at hk
    cases hk
    obtain ⟨rfl, -, hx⟩ := memWrite_ok _ _ _ _ _ _ hr
    refine ⟨by simp, by simp, .inr ⟨hst, a.addr, w, s.reg rd, by simp, hx⟩, by simp, by simp, ?_⟩
    rw [hw]
    exact ⟨by simp, {}⟩

/-- Accumulator writes. -/
theorem hasShape_ac {i : Instr} {s : State} {f : Bool} {v : BitVec 40} {l : List (Bool × Refusal)}
    (hx : exec i s = perform (form4 s.cfg (encodingOf i) f) s (checked l (.ok { s with ac := v })) :=
      by unfold exec; exact rfl)
    (ha : writesAc i = true := by rfl)
    (hf : fullConfig s.cfg = true → f = true := by simp +contextual [fullConfig])
    (hs : sizeOf2 i = 4#32 := by rfl) (hp : placeOf i = .anywhere := by rfl) (hw : flowOf i = .sequential := by rfl)
    (ho : ownOf i = none := by rfl) : HasShape i s := by
  refine hasShape_form4 hx (fun u h hu => ?_) hf hs hp hw ho
  obtain ⟨hk, -⟩ := checked_eq_ok _ _ _ hu
  cases hk
  refine ⟨rfl, rfl, .inl rfl, by simp [ha], by simp, ?_⟩
  rw [hw]
  exact ⟨rfl, {}⟩

/-- Divisions: the quotient, or the exception. -/
theorem hasShape_divide {i j : Instr} {s : State} {rd rn rm : Reg} {q : Word}
    (hx : exec i s = divide j (encodingOf i) rd rn rm s q := by unfold exec; exact rfl)
    (hs : sizeOf2 i = 4#32 := by rfl) (hp : placeOf i = .anywhere := by rfl) (hw : flowOf i = .sequential := by rfl)
    (ho : ownOf i = none := by rfl) : HasShape i s := by
  refine hasShape_inline hx (fun u h hu => ?_) (by simp +contextual [fullConfig]) hs hp hw ho
  obtain ⟨hk, -⟩ := checked_eq_ok _ _ _ hu
  split at hk
  · split at hk <;> cases hk
    exact inline_setReg _ _ _
  · cases hk
    exact inline_setReg _ _ _

end Sys2Proof.Machine
end

section
namespace Sys2Proof.Machine

open Sys2Proof

/-! ### Aligned addresses -/

theorem and_even_mask (a : Word) : a &&& 0xFFFFFFFE#32 = (a >>> 1) <<< 1 := by
  apply BitVec.eq_of_getLsbD_eq
  intro k hk
  interval_cases k <;> simp

theorem align4_eq (a : Word) : align4 a = (a >>> 2) <<< 2 := by
  apply BitVec.eq_of_getLsbD_eq
  intro k hk
  interval_cases k <;> simp [align4]

/-- Bit 0 cleared. -/
theorem toNat_and_even (a : Word) : (a &&& 0xFFFFFFFE#32).toNat = a.toNat / 2 * 2 := by
  rw [and_even_mask, BitVec.toNat_shiftLeft, BitVec.toNat_ushiftRight, Nat.shiftRight_eq_div_pow, Nat.shiftLeft_eq]
  omega

theorem toNat_align4 (a : Word) : (align4 a).toNat = a.toNat / 4 * 4 := by
  rw [align4_eq, BitVec.toNat_shiftLeft, BitVec.toNat_ushiftRight, Nat.shiftRight_eq_div_pow, Nat.shiftLeft_eq]
  omega

/-- The two low bits are zero just in the multiples of 4. -/
theorem extract_two_eq_zero (a : Word) : a.extractLsb' 0 2 = 0#2 ↔ a.toNat % 4 = 0 := by
  rw [← BitVec.toNat_inj, BitVec.extractLsb'_toNat]
  simp

theorem pcAligned_iff (s : State) :
    pcAligned s = true ↔ if s.cpsr.t then s.pc.toNat % 2 = 0 else s.pc.toNat % 4 = 0 := by
  unfold pcAligned
  split <;> simp

/-! ### Branches -/

/-- What a branch keeps. -/
def Jumps (s u : State) : Prop := Quiet s u ∧ FlowKept s u .branch

theorem quiet_of_pc {s v : State} (h : Quiet s v) (a : Word) (p : Cpsr) : Quiet s { v with pc := a, cpsr := p } :=
  { h with }

/-- A branch from a state that differs by registers only. -/
theorem jumps_of_branchWritePc {s v u : State} {a : Word} (hq : Quiet s v) (hc : v.cpsr = s.cpsr)
    (h : branchWritePc v a = .ok u) : Jumps s u := by
  rcases branchWritePc_ok _ _ _ h with ⟨ht, rfl⟩ | ⟨ht, ha, rfl⟩
  · refine ⟨quiet_of_pc hq _ _, by simp [hc], fun _ => .inl (hc ▸ ht), fun _ => ?_⟩
    simp only [pcAligned_iff, ht, if_true, toNat_and_even]
    omega
  · refine ⟨quiet_of_pc hq _ _, by simp [hc], by simp [ht], fun _ => ?_⟩
    simpa only [pcAligned_iff, ht, Bool.false_eq_true, if_false] using (extract_two_eq_zero a).1 ha

theorem getLsbD_zero_eq (a : Word) : a.getLsbD 0 = decide (a.toNat % 2 = 1) := by
  simp [BitVec.getLsbD, Nat.testBit_zero]

theorem getLsbD_one_eq (a : Word) : a.getLsbD 1 = decide (a.toNat / 2 % 2 = 1) := by
  simp [BitVec.getLsbD, Nat.testBit_succ, Nat.testBit_zero]

theorem jumps_of_bxWritePc {s v u : State} {a : Word} (hq : Quiet s v) (hc : v.cpsr = s.cpsr)
    (h : bxWritePc v a = .ok u) : Jumps s u := by
  rcases bxWritePc_ok _ _ _ h with ⟨-, ht, rfl⟩ | ⟨h0, -, h1, rfl⟩ | ⟨h0, h1, rfl⟩
  · refine ⟨quiet_of_pc hq _ _, by simp [hc], fun _ => .inr (hq.cfg ▸ ht), fun _ => ?_⟩
    simp only [pcAligned_iff, if_true, toNat_and_even]
    omega
  · refine ⟨quiet_of_pc hq _ _, by simp [hc], fun ht => .inl (hc ▸ ht), fun _ => ?_⟩
    simp only [getLsbD_one_eq, decide_eq_false_iff_not] at h1
    simp only [pcAligned_iff, toNat_and_even]
    split <;> omega
  · refine ⟨quiet_of_pc hq _ _, by simp [hc], by simp, fun _ => ?_⟩
    simp only [getLsbD_zero_eq, getLsbD_one_eq, decide_eq_false_iff_not] at h0 h1
    simp only [pcAligned_iff, Bool.false_eq_true, if_false]
    omega

/-- An offset that ends in zeros, extended, is a multiple of the same power of two. -/
theorem toNat_signExtend_append_mod {n : Nat} (k : Nat) (x : BitVec n) (hk : k ≤ 32) :
    ((x ++ 0#k).signExtend 32 : Word).toNat % 2 ^ k = 0 := by
  rw [← BitVec.toNat_setWidth]
  refine congrArg BitVec.toNat (a₂ := 0#k) ?_
  apply BitVec.eq_of_getLsbD_eq
  intro j hj
  have : j < 32 := by omega
  have : j < n + k := by omega
  rw [BitVec.getLsbD_setWidth, BitVec.getLsbD_signExtend, BitVec.getLsbD_append]
  simp [*]

/-- An instruction whose form and effect are read off its meaning. -/
theorem hasShape_of {i : Instr} {s : State} {f : Bool} {k : Except Stop State}
    (hx : exec i s = perform (formOf i f) s k)
    (hk : ∀ u, f = true → (encodingOf i).isThumb = s.cpsr.t → k = .ok u → Keeps i s u)
    (hf : fullConfig s.cfg = true → f = true := by simp +contextual [fullConfig])
    (h2 : (encodingOf i).isThumb = true → s.cfg.haveT2 = false → sizeOf2 i = 4#32 → (∀ t, i ≠ .bl t) →
      (∀ t, i ≠ .blxLabel t) → f = false := by simp [encodingOf, sizeOf2, Enc.isThumb]) : HasShape i s :=
  ⟨f, k, hx, hf, h2, hk⟩

/-- A branch. -/
theorem hasShape_jump {i : Instr} {s : State} {f : Bool} {k : Except Stop State}
    (hx : exec i s = perform (formOf i f) s k)
    (hk : ∀ u, f = true → (encodingOf i).isThumb = s.cpsr.t → k = .ok u → Jumps s u)
    (hf : fullConfig s.cfg = true → f = true := by simp +contextual [fullConfig])
    (h2 : (encodingOf i).isThumb = true → s.cfg.haveT2 = false → sizeOf2 i = 4#32 → (∀ t, i ≠ .bl t) →
      (∀ t, i ≠ .blxLabel t) → f = false := by simp [encodingOf, sizeOf2, Enc.isThumb])
    (hw : flowOf i = .branch := by rfl) : HasShape i s :=
  hasShape_of hx (fun u h ht hu => (hk u h ht hu).1.keeps (hw ▸ (hk u h ht hu).2)) hf h2

theorem hasShape_b (t : BTarget) (s : State) : HasShape (.b t) s := by
  cases t with
  | a32 c imm24 => exact hasShape_jump (f := true) rfl fun u _ _ hu => jumps_of_branchWritePc {} rfl hu
  | t3 c sg j1 j2 imm6 imm11 =>
    exact hasShape_jump (f := s.cfg.haveT2) (by rfl) fun u _ _ hu => jumps_of_branchWritePc {} rfl hu
  | t4 sg j1 j2 imm10 imm11 =>
    exact hasShape_jump (f := s.cfg.haveT2) (by rfl) fun u _ _ hu => jumps_of_branchWritePc {} rfl hu

theorem hasShape_bl (t : BlTarget) (s : State) : HasShape (.bl t) s := by
  cases t with
  | a32 c imm24 =>
    exact hasShape_jump (f := true) rfl fun u _ _ hu => jumps_of_branchWritePc {} (by simp) hu
  | t32 sg j1 j2 imm10 imm11 =>
    exact hasShape_jump (f := true) rfl fun u _ _ hu => jumps_of_branchWritePc {} (by simp) hu

/-- The state after BLX to the label `a`. -/
def linkedJump (s : State) (t : Bool) (a : Word) : State :=
  { s.setReg 14#4 (s.linkValue 4#32) with cpsr := { (s.setReg 14#4 (s.linkValue 4#32)).cpsr with t := t }, pc := a }

theorem quiet_linkedJump (s : State) (t : Bool) (a : Word) : Quiet s (linkedJump s t a) :=
  quiet_of_pc (v := s.setReg 14#4 (s.linkValue 4#32)) {} _ _

@[simp] theorem linkedJump_cpsr (s : State) (t : Bool) (a : Word) :
    (linkedJump s t a).cpsr = { s.cpsr with t := t } := by simp [linkedJump]

@[simp] theorem linkedJump_pc (s : State) (t : Bool) (a : Word) : (linkedJump s t a).pc = a := rfl

/-- BLX to a label from ARM state: an even offset from an aligned PC. -/
theorem hasShape_blxLabel (t : BlxTarget) (s : State) : HasShape (.blxLabel t) s := by
  cases t with
  | a32 h imm24 =>
    refine hasShape_jump (f := s.cfg.haveV5 && s.cfg.haveThumb && true) (k := .ok (linkedJump s true
      (s.pc + 8#32 + (imm24 ++ BitVec.ofBool h ++ 0#1).signExtend 32))) rfl fun u hf ht hu => ?_
    cases hu
    have hT : s.cpsr.t = false := ht.symm
    refine ⟨quiet_linkedJump _ _ _, by simp, fun _ => .inr (by simp at hf; exact hf.2), fun ha => ?_⟩
    have hm := toNat_signExtend_append_mod 1 (imm24 ++ BitVec.ofBool h) (by decide)
    simp only [pcAligned_iff, linkedJump_cpsr, linkedJump_pc, hT, Bool.false_eq_true, if_false, if_true,
      BitVec.toNat_add, BitVec.toNat_ofNat]
      at ha ⊢
    omega
  | t32 sg j1 j2 imm10H imm10L =>
    refine hasShape_jump (f := s.cfg.haveV5 && s.cfg.haveThumb && true) (k := .ok (linkedJump s false
      (align4 (s.pc + 4#32) +
        (BitVec.ofBool sg ++ iBit j1 sg ++ iBit j2 sg ++ imm10H ++ imm10L ++ 0#2).signExtend 32))) rfl
          fun u hf ht hu => ?_
    cases hu
    refine ⟨quiet_linkedJump _ _ _, by simp, by simp, fun _ => ?_⟩
    have hm := toNat_signExtend_append_mod 2
      (BitVec.ofBool sg ++ iBit j1 sg ++ iBit j2 sg ++ imm10H ++ imm10L) (by decide)
    simp only [pcAligned_iff, linkedJump_cpsr, linkedJump_pc, Bool.false_eq_true, if_false, BitVec.toNat_add,
      toNat_align4]
    omega

theorem hasShape_bx (e : Enc) (rm : Reg) (s : State) : HasShape (.bx e rm) s := by
  refine hasShape_jump (f := s.cfg.haveThumb) (k := checked [srcPc rm, noSp e rm] (bxWritePc s (s.reg rm)))
    (by cases e <;> rfl) (fun u _ _ hu => ?_)
    (h2 := by cases e <;> simp [encodingOf, sizeOf2, Enc.isThumb])
  exact jumps_of_bxWritePc {} rfl (checked_eq_ok _ _ _ hu).1

theorem hasShape_blxReg (e : Enc) (rm : Reg) (s : State) : HasShape (.blxReg e rm) s := by
  refine hasShape_jump (f := s.cfg.haveV5) (k := checked [srcPc rm, noSp e rm]
      (bxWritePc (s.setReg 14#4 (s.linkValue (regBranchForm e s.cfg.haveV5).size)) (s.reg rm))) (by cases e <;> rfl)
        (fun u _ _ hu => ?_)
    (h2 := by cases e <;> simp [encodingOf, sizeOf2, Enc.isThumb])
  exact jumps_of_bxWritePc {} (by simp) (checked_eq_ok _ _ _ hu).1

theorem hasShape_bxj (e : Enc) (rm : Reg) (s : State) : HasShape (.bxj e rm) s := by
  refine hasShape_jump (f := s.cfg.haveV5J && (!e.isThumb || !true || s.cfg.haveT2)) (by rfl) (fun u _ _ hu => ?_)
    (h2 := by cases e <;> simp +contextual [encodingOf, sizeOf2, Enc.isThumb])
  exact jumps_of_bxWritePc {} rfl (checked_eq_ok _ _ _ hu).1

/-- Compare and branch, taken or not. -/
theorem jumps_of_cbOp {s u : State} {a : Word} {taken : Bool} (ht : s.cpsr.t = true)
    (h : (if taken then branchWritePc s a else .ok { s with pc := s.pc + 2#32 }) = Except.ok (ε := Stop) u) :
    Jumps s u := by
  cases taken
  · cases h
    refine ⟨{}, rfl, fun _ => .inl ht, fun ha => ?_⟩
    simp only [pcAligned_iff, ht, if_true, BitVec.toNat_add, BitVec.toNat_ofNat] at ha ⊢
    omega
  · exact jumps_of_branchWritePc {} rfl h

theorem hasShape_tableBranch {i : Instr} {s : State} {rn rm : Reg} {x : Word} {w : Width}
    (hx : exec i s = tableBranch rn rm s x w) (he : looseForm s.cfg 4#32 = formOf i s.cfg.haveT2)
    (hw : flowOf i = .branch) : HasShape i s := by
  refine hasShape_jump (f := s.cfg.haveT2) (by rw [hx, tableBranch, he]) (fun u _ _ hu => ?_) (hw := hw)
    (h2 := fun _ h _ _ _ => h)
  obtain ⟨hk, -⟩ := checked_eq_ok _ _ _ hu
  split at hk
  · cases hk
  · exact jumps_of_branchWritePc {} rfl hk

/-! ### The status registers -/

/-- The CPSR after MSR, where `m` is the mode written (R450). -/
def cpsrWritten (s : State) (v : Word) (mask : BitVec 4) (m : Mode) : Cpsr := { s.cpsr with
  n := if mask.getLsbD 3 then v.getLsbD 31 else s.cpsr.n
  z := if mask.getLsbD 3 then v.getLsbD 30 else s.cpsr.z
  c := if mask.getLsbD 3 then v.getLsbD 29 else s.cpsr.c
  v := if mask.getLsbD 3 then v.getLsbD 28 else s.cpsr.v
  q := if mask.getLsbD 3 && s.cfg.haveV5E then v.getLsbD 27 else s.cpsr.q
  ge := if mask.getLsbD 2 && s.cfg.haveV6 then v.extractLsb' 16 4 else s.cpsr.ge
  e := if mask.getLsbD 1 && s.cfg.haveV6 then v.getLsbD 9 else s.cpsr.e
  a := if mask.getLsbD 1 && s.privileged && s.cfg.haveV6 then v.getLsbD 8 else s.cpsr.a
  i := if mask.getLsbD 0 && s.privileged then v.getLsbD 7 else s.cpsr.i
  f := if mask.getLsbD 0 && s.privileged then v.getLsbD 6 else s.cpsr.f
  mode := m }

/-- MSR to the CPSR: refused for a number that is no mode, where the mode is written. -/
theorem cpsrWrite_eq (s : State) (v : Word) (mask : BitVec 4) :
    cpsrWrite s v mask =
      match (if mask.getLsbD 0 && s.privileged then Mode.ofBits (v.extractLsb' 0 5) else some s.cpsr.mode) with
      | none => .error (.refuse .badMode)
      | some m => .ok { s with cpsr := cpsrWritten s v mask m } := rfl

/-- MSR to the CPSR writes A, I, F and the mode only when privileged, and Q, GE, E, A only where they exist. -/
theorem inline_cpsrWrite {s u : State} {v : Word} {mask : BitVec 4} (h : cpsrWrite s v mask = .ok u) : Inline s u := by
  rw [cpsrWrite_eq] at h
  cases hm : (if mask.getLsbD 0 && s.privileged then Mode.ofBits (v.extractLsb' 0 5) else some s.cpsr.mode) with
  | none =>
    rw [hm] at h
    cases h
  | some m =>
    rw [hm] at h
    cases h
    refine ⟨{}, rfl, ⟨rfl, rfl, rfl, fun hu => ?_, fun _ hn => by simp [cpsrWritten, hn],
      fun hn => by simp [cpsrWritten, hn]⟩⟩
    have hp : s.privileged = false := by simp [State.privileged, Mode.privileged, hu]
    simp only [hp, Bool.and_false, Bool.false_eq_true, if_false, Option.some.injEq] at hm
    simp [cpsrWritten, hp, hm]

/-- MSR, to either register. -/
theorem keeps_msr {i : Instr} {s u : State} {spsr : Bool} {v : Word} {mask : BitVec 4}
    (h : (if spsr then spsrWrite s v mask else cpsrWrite s v mask) = .ok u) (hi : writesSpsr i = spsr)
    (hw : flowOf i = .sequential) : Keeps i s u := by
  cases spsr with
  | false =>
    have hk := inline_cpsrWrite h
    exact hk.1.keeps (hw ▸ hk.2)
  | true =>
    simp only [if_true, spsrWrite] at h
    split at h
    · cases h
    · cases h
      refine ⟨by simp, by simp, .inl (by simp), by simp, by simp [hi], ?_⟩
      rw [hw]
      exact ⟨by simp, {}⟩

/-- CPS and the like do nothing in User mode (R454). -/
theorem inline_changeMode {s v u : State} {m : BitVec 5} (hp : s.privileged = true) (hv : Inline s v)
    (h : changeMode v m = .ok u) : Inline s u := by
  unfold changeMode at h
  split at h
  · cases h
  · cases h
    obtain ⟨hq, hpc, hc⟩ := hv
    exact ⟨{ hq with }, hpc, { hc with user := fun hu => by simp [State.privileged, Mode.privileged, hu] at hp }⟩

theorem inline_masks {s : State} (hp : s.privileged = true) (h6 : s.cfg.haveV6 = true) (a i f : Bool) :
    Inline s { s with cpsr := { s.cpsr with a := a, i := i, f := f } } :=
  ⟨{}, rfl, { user := fun hu => by simp [State.privileged, Mode.privileged, hu] at hp, v6 := by simp [h6] }⟩

theorem cpsForm_eq {i : Instr} {c : Config} {thumb : Bool} (he : encodingOf i = encOf thumb) (hs : sizeOf2 i = 4#32)
    (hp : placeOf i = .never) (hw : flowOf i = .sequential) (ho : ownOf i = none) :
    cpsForm c thumb = formOf i (c.haveV6 && (!thumb || c.haveT2)) := by
  cases thumb <;> simp [cpsForm, form4, formOf, he, hs, hp, hw, ho, encOf, Enc.isThumb]

theorem hasShape_cps {i : Instr} {s : State} {thumb : Bool} {k : Except Stop State}
    (hx : exec i s = perform (cpsForm s.cfg thumb) s k) (he : encodingOf i = encOf thumb)
    (hk : ∀ u, s.cfg.haveV6 = true → k = .ok u → Inline s u)
    (hs : sizeOf2 i = 4#32 := by rfl) (hp : placeOf i = .never := by rfl) (hw : flowOf i = .sequential := by rfl)
    (ho : ownOf i = none := by rfl) : HasShape i s := by
  refine hasShape_of (f := s.cfg.haveV6 && (!thumb || s.cfg.haveT2)) (by rw [hx, cpsForm_eq he hs hp hw ho])
    (fun u h _ hu => ?_) (h2 := fun ht h _ _ _ => ?_)
  · have := hk u (Bool.and_eq_true_iff.1 h).1 hu
    exact this.1.keeps (hw ▸ this.2)
  · cases thumb <;> simp_all [encOf, Enc.isThumb]

theorem hasShape_cpsOp {i : Instr} {s : State} {v thumb m a i1 f : Bool} {mode : BitVec 5}
    (hx : exec i s = cpsOp v thumb m a i1 f mode s) (he : encodingOf i = encOf thumb)
    (hs : sizeOf2 i = 4#32 := by rfl) (hp : placeOf i = .never := by rfl) (hw : flowOf i = .sequential := by rfl)
    (ho : ownOf i = none := by rfl) : HasShape i s := by
  refine hasShape_cps hx he (fun u h6 hu => ?_) hs hp hw ho
  by_cases hpriv : s.privileged = true
  · rw [if_pos hpriv] at hu
    have hm := inline_masks hpriv h6 (if a then v else s.cpsr.a) (if i1 then v else s.cpsr.i)
      (if f then v else s.cpsr.f)
    cases m
    · cases hu
      exact hm
    · exact inline_changeMode hpriv hm hu
  · rw [if_neg hpriv] at hu
    cases hu
    exact inline_refl s

end Sys2Proof.Machine
end

section
namespace Sys2Proof.Machine

open Sys2Proof

/-! ### Every instruction has its shape -/

theorem hasShape_arith {i : Instr} {s : State} {sf near : Bool} {rd rn : Reg} {o : Op2}
    {fn : Word → Word → Bool → Word × Bool × Bool}
    (hx : exec i s = arith (encodingOf i) sf rd rn o near s fn := by unfold exec; exact rfl)
    (hs : sizeOf2 i = 4#32 := by rfl) (hp : placeOf i = .anywhere := by rfl) (hw : flowOf i = .sequential := by rfl)
    (ho : ownOf i = none := by rfl) : HasShape i s :=
  hasShape_op2 (f := true) (fun _ => (inline_setReg s rd _).withFlags sf (cpsrKept_setNZCV ..)) hx (fun _ => rfl)
    hs hp hw ho

theorem hasShape_arithTest {i : Instr} {s : State} {rn : Reg} {o : Op2}
    {fn : Word → Word → Bool → Word × Bool × Bool} (hx : exec i s = arithTest (encodingOf i) rn o s fn :=
      by unfold exec; exact rfl)
    (hs : sizeOf2 i = 4#32 := by rfl) (hp : placeOf i = .anywhere := by rfl) (hw : flowOf i = .sequential := by rfl)
    (ho : ownOf i = none := by rfl) : HasShape i s :=
  hasShape_op2 (f := true) (fun _ => (inline_refl s).withFlags true (cpsrKept_setNZCV ..)) hx (fun _ => rfl)
    hs hp hw ho

theorem hasShape_logical {i : Instr} {s : State} {f sf : Bool} {rd rn : Reg} {o : Op2} {fn : Word → Word → Word}
    (hx : exec i s = logical f (encodingOf i) sf rd rn o s fn := by unfold exec; exact rfl)
    (hf : fullConfig s.cfg = true → f = true := by simp +contextual [fullConfig])
    (hs : sizeOf2 i = 4#32 := by rfl) (hp : placeOf i = .anywhere := by rfl) (hw : flowOf i = .sequential := by rfl)
    (ho : ownOf i = none := by rfl) : HasShape i s :=
  hasShape_op2 (fun _ => (inline_setReg s rd _).withFlags sf (cpsrKept_setNZC ..)) hx hf hs hp hw ho

theorem hasShape_logicalTest {i : Instr} {s : State} {rn : Reg} {o : Op2} {fn : Word → Word → Word}
    (hx : exec i s = logicalTest (encodingOf i) rn o s fn := by unfold exec; exact rfl)
    (hs : sizeOf2 i = 4#32 := by rfl) (hp : placeOf i = .anywhere := by rfl) (hw : flowOf i = .sequential := by rfl)
    (ho : ownOf i = none := by rfl) : HasShape i s :=
  hasShape_op2 (f := true) (fun _ => (inline_refl s).withFlags true (cpsrKept_setNZC ..)) hx (fun _ => rfl)
    hs hp hw ho

theorem hasShape_move {i : Instr} {s : State} {sf sp : Bool} {rd : Reg} {o : Op2} {fn : Word → Word}
    (hx : exec i s = move (encodingOf i) sf rd o sp s fn := by unfold exec; exact rfl)
    (hs : sizeOf2 i = 4#32 := by rfl) (hp : placeOf i = .anywhere := by rfl) (hw : flowOf i = .sequential := by rfl)
    (ho : ownOf i = none := by rfl) : HasShape i s :=
  hasShape_op2 (f := true) (fun _ => (inline_setReg s rd _).withFlags sf (cpsrKept_setNZC ..)) hx (fun _ => rfl)
    hs hp hw ho

theorem hasShape_shiftReg {i : Instr} {s : State} {ty : ShiftType} {sf : Bool} {rd rm rs : Reg}
    (hx : exec i s = shiftReg ty sf rd rm rs s := by unfold exec; exact rfl) (he : encodingOf i = .thumb := by rfl)
    (hs : sizeOf2 i = 4#32 := by rfl) (hp : placeOf i = .anywhere := by rfl) (hw : flowOf i = .sequential := by rfl)
    (ho : ownOf i = none := by rfl) : HasShape i s :=
  hasShape_checked (f := true) (fun _ => (inline_setReg s rd _).withFlags sf (cpsrKept_setNZC ..))
    (by rw [hx, he]; rfl) (fun _ => rfl) hs hp hw ho

theorem hasShape_parallel16 {i : Instr} {s : State} {p : ParPrefix} {op : HalfOp} {rd rn rm : Reg}
    (hx : exec i s = parallel16 p op (encodingOf i) rd rn rm s := by unfold exec; exact rfl)
    (hs : sizeOf2 i = 4#32 := by rfl) (hp : placeOf i = .anywhere := by rfl) (hw : flowOf i = .sequential := by rfl)
    (ho : ownOf i = none := by rfl) : HasShape i s :=
  hasShape_plainOp (fun h => inline_parallel h rd _ _ _) hx (by simp +contextual [fullConfig]) hs hp hw ho

theorem hasShape_parallel8 {i : Instr} {s : State} {p : ParPrefix} {sub : Bool} {rd rn rm : Reg}
    (hx : exec i s = parallel8 p sub (encodingOf i) rd rn rm s := by unfold exec; exact rfl)
    (hs : sizeOf2 i = 4#32 := by rfl) (hp : placeOf i = .anywhere := by rfl) (hw : flowOf i = .sequential := by rfl)
    (ho : ownOf i = none := by rfl) : HasShape i s :=
  hasShape_plainOp (fun h => inline_parallel h rd _ _ _) hx (by simp +contextual [fullConfig]) hs hp hw ho

theorem hasShape_longMul {i : Instr} {s : State} {sf : Bool} {lo hi rm rs : Reg} {r : BitVec 64}
    (hx : exec i s = longMul (encodingOf i) sf lo hi rm rs s r := by unfold exec; exact rfl)
    (hs : sizeOf2 i = 4#32 := by rfl) (hp : placeOf i = .anywhere := by rfl) (hw : flowOf i = .sequential := by rfl)
    (ho : ownOf i = none := by rfl) : HasShape i s := by
  refine hasShape_checked (f := true) (fun _ => ?_) hx (fun _ => rfl) hs hp hw ho
  cases sf
  · exact inline_setPair s lo hi r
  · exact inline_mulFlags64 (inline_setPair s lo hi r) r

/-- MUL and MLA: the flags, where they are written. -/
theorem inline_mul (s : State) (sf : Bool) (rd : Reg) (r : Word) :
    Inline s (if sf then mulFlags32 (s.setReg rd r) r else s.setReg rd r) := by
  cases sf
  · exact inline_setReg s rd r
  · exact inline_mulFlags32 (inline_setReg s rd r) r

/-- SUB is an exception return only where it may write the PC. -/
theorem exec_sub {e : Enc} {sf : Bool} {rd rn : Reg} {o : Op2} {s : State} (h : writesPc (.sub e sf rd rn o) = false) :
    exec (.sub e sf rd rn o) s =
      arith e sf rd rn o (op2NearSp o) s (fun a b _ => addWithCarry a (~~~b) true) := by
  cases e with
  | thumb => rfl
  | a32 c =>
    cases sf with
    | false => rfl
    | true =>
      cases o with
      | immA r i =>
        have hne : ¬(rd = 15#4 ∧ rn = 14#4) := by simpa [writesPc] using h
        exact if_neg hne
      | immT i => rfl
      | reg rm ty i => rfl
      | regReg rm ty rs => rfl

theorem flowOf_sub {e : Enc} {sf : Bool} {rd rn : Reg} {o : Op2} (h : writesPc (.sub e sf rd rn o) = false) :
    flowOf (.sub e sf rd rn o) = .sequential := by
  cases e with
  | thumb => rfl
  | a32 c =>
    cases sf with
    | false => rfl
    | true =>
      cases o with
      | immA r i =>
        have hne : ¬(rd = 15#4 ∧ rn = 14#4) := by simpa [writesPc] using h
        exact if_neg hne
      | immT i => rfl
      | reg rm ty i => rfl
      | regReg rm ty rs => rfl

/-- The words of SUBS PC, LR, #imm in ARM state. -/
theorem eq_subs_of_writesPc {e : Enc} {sf : Bool} {rd rn : Reg} {o : Op2} (h : writesPc (.sub e sf rd rn o) = true) :
    ∃ c r i, e = .a32 c ∧ sf = true ∧ rd = 15#4 ∧ rn = 14#4 ∧ o = .immA r i := by
  cases e with
  | thumb => simp [writesPc] at h
  | a32 c =>
    cases sf with
    | false => simp [writesPc] at h
    | true =>
      cases o with
      | immA r i => exact ⟨c, r, i, rfl, rfl, by simpa [writesPc] using h⟩
      | immT i => simp [writesPc] at h
      | reg rm ty i => simp [writesPc] at h
      | regReg rm ty rs => simp [writesPc] at h

/-- An exception return (R214). -/
theorem keeps_exceptionReturn {i : Instr} {s u : State} {imm : Word} (h : exceptionReturn s imm = .ok u)
    (hw : flowOf i = .ret) : Keeps i s u := by
  obtain ⟨w, m, hsp, -, -, hc, hu, hpc⟩ := exceptionReturn_ok _ _ _ h
  have hq : Quiet s u := by
    rw [hu]
    exact {}
  refine hq.keeps ?_
  rw [hw]
  refine ⟨by simp [hsp], ⟨w, m, hc⟩, ?_⟩
  rw [pcAligned_iff]
  rcases hpc with ⟨ht, hp⟩ | ⟨ht, ha, hp⟩
  · rw [if_pos ht, hp, toNat_and_even]
    omega
  · rw [if_neg (by simp [ht]), hp]
    exact (extract_two_eq_zero _).1 ha

theorem hasShape_sub (e : Enc) (sf : Bool) (rd rn : Reg) (o : Op2) (s : State) : HasShape (.sub e sf rd rn o) s := by
  cases h : writesPc (.sub e sf rd rn o) with
  | false => exact hasShape_arith (exec_sub h) (hw := flowOf_sub h)
  | true =>
    obtain ⟨c, r, i, rfl, rfl, rfl, rfl, rfl⟩ := eq_subs_of_writesPc h
    exact hasShape_of (f := true) (k := exceptionReturn s (armExpandImm r i s.cpsr.c).1) rfl
      fun u _ _ hu => keeps_exceptionReturn hu rfl

theorem hasShape_setend (thumb big : Bool) (s : State) : HasShape (.setend thumb big) s := by
  refine hasShape_of (f := s.cfg.haveV6) (k := .ok { s with cpsr := { s.cpsr with e := big } })
    (by cases thumb <;> rfl) (fun u h _ hu => ?_) (h2 := fun _ _ => by cases thumb <;> simp_all [encodingOf, encOf,
      sizeOf2, Enc.isThumb])
  cases hu
  exact Quiet.keeps {} ⟨rfl, { v6 := fun hn => by simp [h] at hn }⟩

theorem hasShape_it (c m : BitVec 4) (s : State) : HasShape (.it c m) s := by
  refine hasShape_of (f := s.cfg.haveT2) (by rfl) fun u h ht hu => ?_
  obtain ⟨hk, -⟩ := checked_eq_ok _ _ _ hu
  cases hk
  exact Quiet.keeps {} ⟨rfl, h, ht.symm, rfl⟩

theorem hasShape_mrs (e : Enc) (spsr : Bool) (rd : Reg) (s : State) : HasShape (.mrs e spsr rd) s := by
  refine hasShape_inline (f := true) (by rfl) fun u _ hu => ?_
  obtain ⟨hk, -⟩ := checked_eq_ok _ _ _ hu
  cases spsr with
  | false =>
    cases hk
    exact inline_setReg _ _ _
  | true =>
    cases hs : s.spsr with
    | none => simp [hs] at hk
    | some w =>
      simp only [if_true, hs] at hk
      cases hk
      exact inline_setReg _ _ _

/-- The meaning of SDIV, without unfolding the division's exception. -/
theorem exec_sdiv (e : Enc) (rd rn rm : Reg) (s : State) :
    exec (.sdiv e rd rn rm) s =
      divide (.sdiv e rd rn rm) e rd rn rm s (BitVec.ofInt 32 ((s.reg rn).toInt.tdiv (s.reg rm).toInt)) := by
  change execSdiv e rd rn rm s = _
  rw [execSdiv]

theorem exec_udiv (e : Enc) (rd rn rm : Reg) (s : State) :
    exec (.udiv e rd rn rm) s =
      divide (.udiv e rd rn rm) e rd rn rm s (BitVec.ofNat 32 ((s.reg rn).toNat / (s.reg rm).toNat)) := by
  change execUdiv e rd rn rm s = _
  rw [execUdiv]

/-- The meaning of every instruction has its shape. -/
theorem hasShape (i : Instr) (s : State) : HasShape i s := by
  have h6 : s.cfg.haveV6 = true → s.cfg.wf = true → s.cfg.haveV5E = true := fun h hw => haveV5E_of_haveV6 hw h
  cases i with
  | sub e sf rd rn o => exact hasShape_sub e sf rd rn o s
  | rsb e sf rd rn o | add e sf rd rn o | adc e sf rd rn o | sbc e sf rd rn o | rsc e sf rd rn o =>
    exact hasShape_arith
  | and e sf rd rn o | eor e sf rd rn o | orr e sf rd rn o | bic e sf rd rn o =>
    exact hasShape_logical (f := true)
  | orn sf rd rn o => exact hasShape_logical (f := s.cfg.haveT2)
  | tst e rn o | teq e rn o => exact hasShape_logicalTest
  | cmp e rn o | cmn e rn o => exact hasShape_arithTest
  | mov e sf rd o | mvn e sf rd o | rrx e sf rd o => exact hasShape_move
  | lsl sf rd rm rs | lsr sf rd rm rs | asr sf rd rm rs | ror sf rd rm rs => exact hasShape_shiftReg
  | adr add rd imm | addw rd rn imm | subw rd rn imm =>
    exact hasShape_checked (f := s.cfg.haveT2) fun _ => inline_setReg _ _ _
  | subsPcLr imm =>
    exact hasShape_of (f := s.cfg.haveT2) (k := exceptionReturn s (imm.setWidth 32)) rfl
      fun u _ _ hu => keeps_exceptionReturn hu rfl
  | movw e rd imm | movt e rd imm => exact hasShape_plainOp (f := s.cfg.haveT2) fun _ => inline_setReg _ _ _
  | qadd e rd rm rn | qsub e rd rm rn | qdadd e rd rm rn | qdsub e rd rm rn =>
    exact hasShape_plainOp (f := s.cfg.haveV5E) fun h => inline_setRegQ _ _ _ fun _ => h
  | sadd16 e rd rn rm | qadd16 e rd rn rm | shadd16 e rd rn rm | uadd16 e rd rn rm | uqadd16 e rd rn rm
  | uhadd16 e rd rn rm | ssub16 e rd rn rm | qsub16 e rd rn rm | shsub16 e rd rn rm | usub16 e rd rn rm
  | uqsub16 e rd rn rm | uhsub16 e rd rn rm | sasx e rd rn rm | qasx e rd rn rm | shasx e rd rn rm | uasx e rd rn rm
  | uqasx e rd rn rm | uhasx e rd rn rm | ssax e rd rn rm | qsax e rd rn rm | shsax e rd rn rm | usax e rd rn rm
  | uqsax e rd rn rm | uhsax e rd rn rm => exact hasShape_parallel16
  | sadd8 e rd rn rm | qadd8 e rd rn rm | shadd8 e rd rn rm | uadd8 e rd rn rm | uqadd8 e rd rn rm | uhadd8 e rd rn rm
  | ssub8 e rd rn rm | qsub8 e rd rn rm | shsub8 e rd rn rm | usub8 e rd rn rm | uqsub8 e rd rn rm
  | uhsub8 e rd rn rm => exact hasShape_parallel8
  | usad8 e rd rm rs => exact hasShape_plainOp (f := s.cfg.haveV6) fun _ => inline_setReg _ _ _
  | usada8 e rd rm rs rn => exact hasShape_plainOp (f := s.cfg.haveV6) fun _ => inline_setReg _ _ _
  | ssat e rd n sh imm rm | usat e rd n sh imm rm =>
    exact hasShape_plainOp (f := s.cfg.haveV6) fun h => inline_setRegQ _ _ _ (h6 h)
  | ssat16 e rd n rm | usat16 e rd n rm =>
    exact hasShape_plainOp (f := s.cfg.haveV6) fun h => inline_setRegQ _ _ _ (h6 h)
  | mul e sf rd rm rs => exact hasShape_checked (f := true) fun _ => inline_mul s sf rd _
  | mla e sf rd rm rs rn => exact hasShape_checked (f := true) fun _ => inline_mul s sf rd _
  | mls e rd rm rs rn => exact hasShape_plainOp (f := s.cfg.haveT2) fun _ => inline_setReg _ _ _
  | umull e sf lo hi rm rs | umlal e sf lo hi rm rs | smull e sf lo hi rm rs | smlal e sf lo hi rm rs =>
    exact hasShape_longMul
  | umaal e lo hi rm rs => exact hasShape_checked (f := s.cfg.haveV6) fun _ => inline_setPair _ _ _ _
  | smlalxy e x y lo hi rm rs => exact hasShape_checked (f := s.cfg.haveV5E) fun _ => inline_setPair _ _ _ _
  | smlald e x lo hi rm rs | smlsld e x lo hi rm rs =>
    exact hasShape_checked (f := s.cfg.haveV6) fun _ => inline_setPair _ _ _ _
  | smlaxy e x y rd rm rs rn =>
    exact hasShape_plainOp (f := s.cfg.haveV5E) fun h => inline_setRegQ _ _ _ fun _ => h
  | smlawy e y rd rm rs rn => exact hasShape_plainOp (f := s.cfg.haveV5E) fun h => inline_setRegQ _ _ _ fun _ => h
  | smulwy e y rd rm rs => exact hasShape_plainOp (f := s.cfg.haveV5E) fun _ => inline_setReg _ _ _
  | smulxy e x y rd rm rs => exact hasShape_plainOp (f := s.cfg.haveV5E) fun _ => inline_setReg _ _ _
  | smuad e x rd rm rs => exact hasShape_plainOp (f := s.cfg.haveV6) fun h => inline_setRegQ _ _ _ (h6 h)
  | smusd e x rd rm rs | smmul e x rd rm rs =>
    exact hasShape_plainOp (f := s.cfg.haveV6) fun _ => inline_setReg _ _ _
  | smlad e x rd rm rs rn | smlsd e x rd rm rs rn =>
    exact hasShape_plainOp (f := s.cfg.haveV6) fun h => inline_setRegQ _ _ _ (h6 h)
  | smmla e x rd rm rs rn | smmls e x rd rm rs rn =>
    exact hasShape_plainOp (f := s.cfg.haveV6) fun _ => inline_setReg _ _ _
  | mia c rm rs | miaph c rm rs => exact hasShape_ac (f := s.cfg.haveXS)
  | miaxy c x y rm rs => exact hasShape_ac (f := s.cfg.haveXS)
  | mar c lo hi => exact hasShape_ac (f := s.cfg.haveXS)
  | mra c lo hi =>
    exact hasShape_checked (f := s.cfg.haveXS) fun _ => (inline_setReg _ _ _).setReg _ _
  | sdiv e rd rn rm => exact hasShape_divide (exec_sdiv e rd rn rm s)
  | udiv e rd rn rm => exact hasShape_divide (exec_udiv e rd rn rm s)
  | clz e rd rm => exact hasShape_plainOp (f := s.cfg.haveV5) fun _ => inline_setReg _ _ _
  | rbit e rd rm => exact hasShape_plainOp (f := s.cfg.haveT2) fun _ => inline_setReg _ _ _
  | rev e rd rm | rev16 e rd rm | revsh e rd rm =>
    exact hasShape_plainOp (f := s.cfg.haveV6) fun _ => inline_setReg _ _ _
  | bfc e rd lsb msb => exact hasShape_checked (f := s.cfg.haveT2) fun _ => inline_setReg _ _ _
  | bfi e rd rn lsb msb | sbfx e rd rn lsb msb | ubfx e rd rn lsb msb =>
    exact hasShape_checked (f := s.cfg.haveT2) fun _ => inline_setReg _ _ _
  | pkhbt e rd rn rm imm | pkhtb e rd rn rm imm =>
    exact hasShape_plainOp (f := s.cfg.haveV6) fun _ => inline_setReg _ _ _
  | sxth e rd rm rot | sxtb16 e rd rm rot | sxtb e rd rm rot | uxth e rd rm rot | uxtb16 e rd rm rot
  | uxtb e rd rm rot => exact hasShape_plainOp (f := s.cfg.haveV6) fun _ => inline_setReg _ _ _
  | sxtah e rd rn rm rot | sxtab16 e rd rn rm rot | sxtab e rd rn rm rot | uxtah e rd rn rm rot
  | uxtab16 e rd rn rm rot | uxtab e rd rn rm rot =>
    exact hasShape_plainOp (f := s.cfg.haveV6) fun _ => inline_setReg _ _ _
  | sel e rd rn rm => exact hasShape_plainOp (f := s.cfg.haveV6) fun _ => inline_setReg _ _ _
  | it c m => exact hasShape_it c m s
  | b t => exact hasShape_b t s
  | bl t => exact hasShape_bl t s
  | blxLabel t => exact hasShape_blxLabel t s
  | bx e rm => exact hasShape_bx e rm s
  | blxReg e rm => exact hasShape_blxReg e rm s
  | bxj e rm => exact hasShape_bxj e rm s
  | cbz i imm rn | cbnz i imm rn =>
    exact hasShape_jump (f := s.cfg.haveT2) rfl fun u _ ht hu => jumps_of_cbOp ht.symm hu
  | tbb rn rm | tbh rn rm => exact hasShape_tableBranch rfl rfl rfl
  | mrs e spsr rd => exact hasShape_mrs e spsr rd s
  | msrReg e spsr mask rm =>
    exact hasShape_form4 (f := true) rfl fun u _ hu => keeps_msr (checked_eq_ok _ _ _ hu).1 rfl rfl
  | msrImm c spsr mask rot imm => exact hasShape_form4 (f := true) rfl fun u _ hu => keeps_msr hu rfl rfl
  | cpsie thumb m a i f mode | cpsid thumb m a i f mode => exact hasShape_cpsOp rfl rfl
  | cps thumb mode =>
    refine hasShape_cps rfl rfl fun u _ hu => ?_
    by_cases hp : s.privileged = true
    · rw [if_pos hp] at hu
      exact inline_changeMode hp (inline_refl s) hu
    · rw [if_neg hp] at hu
      cases hu
      exact inline_refl s
  | setend thumb big => exact hasShape_setend thumb big s
  | ldr e rd m | ldrb e rd m | ldrsb e rd m | ldrh e rd m | ldrsh e rd m => exact hasShape_load (f := true)
  | str e rd m | strb e rd m | strh e rd m => exact hasShape_store (f := true)
  | ldrt e rd m | ldrbt e rd m => exact hasShape_load (f := true)
  | ldrsbt e rd m | ldrht e rd m | ldrsht e rd m => exact hasShape_load (f := s.cfg.haveT2)
  | strt e rd m | strbt e rd m => exact hasShape_store (f := true)
  | strht e rd m => exact hasShape_store (f := s.cfg.haveT2)

end Sys2Proof.Machine
end

section
/-! PROOFS. What no instruction and no step changes, and where an instruction may stand (spec 10_state,
45_branch_it, 46_psr_state_change, 60_exceptions section 8). -/

namespace Sys2Proof.Machine

open Sys2Proof

/-! ### What a next state of `exec` is -/

/-- Everything `exec` can do when it answers a next state: the effect and its end, an exception taken, or a skip. -/
theorem exec_next {i : Instr} {s t : State} (h : exec i s = .next t) :
    ∃ f, available (formOf i f) s = true ∧ misplaced (formOf i f) s = none ∧
      ((∃ u, Keeps i s u ∧ t = finish (formOf i f) u) ∨
        (∃ x, s.cfg.trapModel = .classic ∧ t = takeException x s) ∨ t = skip (formOf i f) s) := by
  obtain ⟨f, k, hx, -, -, hk⟩ := hasShape i s
  rw [hx] at h
  obtain ⟨ha, hm, c, -, ⟨-, ⟨u, hu, rfl⟩ | ⟨x, -, hc, rfl⟩⟩ | ⟨-, rfl⟩⟩ := perform_next _ _ _ _ h
  · have hav : f = true ∧ (encodingOf i).isThumb = s.cpsr.t := by simpa [available, formOf] using ha
    exact ⟨f, ha, hm, .inl ⟨u, hk u hav.1 hav.2 hu, rfl⟩⟩
  · exact ⟨f, ha, hm, .inr (.inl ⟨x, hc, rfl⟩)⟩
  · exact ⟨f, ha, hm, .inr (.inr rfl)⟩

theorem isThumb_of_available {i : Instr} {f : Bool} {s : State} (h : available (formOf i f) s = true) :
    (encodingOf i).isThumb = s.cpsr.t := by
  simp only [available, formOf, Bool.and_eq_true, beq_iff_eq] at h
  exact h.2

/-- The CPSR at the end of an instruction differs in the IT state only. -/
theorem finish_cpsr (fm : Form) (s : State) : (finish fm s).cpsr = { s.cpsr with it := (finish fm s).cpsr.it } := by
  unfold finish
  split <;> simp

/-- Where the flow is in line, or IT's, the PC moves on by the size. -/
theorem finish_pc (fm : Form) (s : State) :
    (finish fm s).pc = match fm.flow with
      | .sequential | .itself => s.pc + fm.size
      | .branch | .ret => s.pc := by
  unfold finish
  split <;> simp_all

/-! ### User mode (R450) -/

/-- An effect in User mode leaves the mode and the masks. -/
theorem Keeps.user {i : Instr} {s u : State} (h : Keeps i s u) (hu : s.cpsr.mode = .usr) :
    u.cpsr.mode = s.cpsr.mode ∧ u.cpsr.a = s.cpsr.a ∧ u.cpsr.i = s.cpsr.i ∧ u.cpsr.f = s.cpsr.f := by
  have hf := h.flow
  cases hw : flowOf i with
  | sequential =>
    rw [hw] at hf
    exact hf.2.user hu
  | branch =>
    rw [hw] at hf
    rw [hf.1]
    exact ⟨rfl, rfl, rfl, rfl⟩
  | ret =>
    rw [hw] at hf
    exact absurd ((State.spsr_eq_none s).2 (.inl hu)) hf.1
  | itself =>
    rw [hw] at hf
    rw [hf.2.2.2]
    exact ⟨rfl, rfl, rfl, rfl⟩

/-- Settles O51: an effect keeps the mode and the masks in User mode, and the end of an instruction writes IT only. -/
theorem userModeConfined : Obligations.UserModeConfined := by
  intro i s t hu h
  obtain ⟨f, -, -, ⟨u, hk, rfl⟩ | hx | rfl⟩ := exec_next h
  · obtain ⟨hm, ha, hi, hf⟩ := hk.user hu
    rw [finish_cpsr]
    exact .inl ⟨hm.trans hu, ha, hi, hf⟩
  · exact .inr hx
  · exact .inl ⟨by simp [hu], by simp, by simp, by simp⟩

/-! ### What each instruction writes -/

/-- Only the instructions that write the PC have another flow than in line, but for IT. -/
theorem flowOf_of_writesPc {i : Instr} (h : writesPc i = false) : flowOf i = .sequential ∨ flowOf i = .itself := by
  cases i with
  | sub e sf rd rn o => exact .inl (flowOf_sub h)
  | _ => first | exact .inl rfl | exact .inr rfl | cases h

/-- An effect leaves the PC, where the instruction does not write it. -/
theorem Keeps.pc {i : Instr} {s u : State} (h : Keeps i s u) (hw : writesPc i = false) : u.pc = s.pc := by
  have hf := h.flow
  rcases flowOf_of_writesPc hw with hw | hw <;> rw [hw] at hf <;> exact hf.1

/-- Settles O52, from what an effect keeps and what the end of an instruction writes. -/
theorem writersOfEachState : Obligations.WritersOfEachState := by
  intro i s t h
  obtain ⟨f, -, -, ⟨u, hk, rfl⟩ | hx | rfl⟩ := exec_next h
  · refine .inr ⟨fun hw => ?_, fun hst => ?_, fun ha => by simpa using hk.ac ha, by simpa using hk.cfg,
      by simpa using hk.stepNo, fun hsp => by simpa using hk.spsr hsp⟩
    · rw [finish_pc, hk.pc hw]
      rcases flowOf_of_writesPc hw with hw | hw <;> simp [formOf, hw]
    · rcases hk.mem with hm | ⟨hst', -⟩
      · simpa using hm
      · rw [hst] at hst'
        cases hst'
  · exact .inl hx
  · exact .inr ⟨fun _ => by simp [formOf], by simp, by simp, by simp, by simp, by simp⟩

/-! ### The program text (R94) -/

/-- What a step that answers a next state did: it raised an exception, or executed an instruction. -/
theorem step_next {s t : State} (h : step s = .next t) :
    ∃ u, t = { u with stepNo := u.stepNo + 1 } ∧
      ((∃ x, s.cfg.trapModel = .classic ∧ u = takeException x s) ∨ (s.cpsr.j = false ∧ ∃ i, exec i s = .next u)) := by
  have htick : ∀ {o : Host.Outcome State Fault Refusal}, tick o = .next t →
      ∃ u, o = .next u ∧ t = { u with stepNo := u.stepNo + 1 } := by
    intro o ho
    cases o with
    | next u => exact ⟨u, rfl, by cases ho; rfl⟩
    | fault f => cases ho
    | refused r => cases ho
  have hraise : ∀ {x : Exc}, tick (raiseExc x s) = .next t →
      ∃ u, t = { u with stepNo := u.stepNo + 1 } ∧ s.cfg.trapModel = .classic ∧ u = takeException x s := by
    intro x hx
    obtain ⟨u, hu, ht⟩ := htick hx
    unfold raiseExc at hu
    split at hu
    · cases hu
    · rename_i hc
      cases hu
      exact ⟨_, ht, hc, rfl⟩
  unfold step at h
  split at h
  · cases h
  split at h
  · obtain ⟨u, ht, hu⟩ := hraise h
    exact ⟨u, ht, .inl ⟨_, hu⟩⟩
  split at h
  · cases h
  rename_i hj
  split at h
  · obtain ⟨u, ht, hu⟩ := hraise h
    exact ⟨u, ht, .inl ⟨_, hu⟩⟩
  split at h
  · cases h
  split at h
  · cases h
  · obtain ⟨u, hu, ht⟩ := htick h
    exact ⟨u, ht, .inr ⟨by simpa using hj, _, hu⟩⟩

/-- No effect changes an executable byte: a store that touches one is refused. -/
theorem MemKept.byteAt {i : Instr} {s u : State} (h : MemKept i s u) {a : Word} (ha : executable s.cfg a = true) :
    u.byteAt a = s.byteAt a := by
  rcases h with hm | ⟨-, b, w, v, hm, hx⟩
  · simp [State.byteAt, hm]
  · have hn : a ∉ touched b w := by
      intro hmem
      have := List.any_eq_false.1 hx a hmem
      simp [ha] at this
    simpa [State.byteAt, hm] using State.storeValue_byteAt_ne s b a w v hn

/-- Settles O53: memory changes by stores only, which are refused where they touch code. -/
theorem programTextFixed : Obligations.ProgramTextFixed := by
  intro s t a h ha
  obtain ⟨u, rfl, ⟨x, -, rfl⟩ | ⟨-, i, hx⟩⟩ := step_next h
  · simp [State.byteAt]
  · obtain ⟨f, -, -, ⟨v, hk, rfl⟩ | ⟨x, -, rfl⟩ | rfl⟩ := exec_next hx
    · simpa [State.byteAt] using hk.mem.byteAt ha
    · simp [State.byteAt]
    · simp [State.byteAt]

/-! ### Where an instruction may stand -/

theorem endsBlock_iff (s : State) : endsBlock s = true ↔ s.cpsr.it.extractLsb' 0 3 = 0#3 := by
  unfold endsBlock
  generalize s.cpsr.it = it
  revert it
  decide

theorem misplaced_formOf {i : Instr} {f : Bool} {s : State} :
    misplaced (formOf i f) s =
      if (encodingOf i).isThumb = true ∧ s.cpsr.it ≠ 0#8 then
        (if notInIt i then some (if flowOf i = .itself then .itInsideIt else .notAllowedInIt)
         else if lastInIt i = true ∧ endsBlock s = false then some .branchInsideIt else none)
      else none := by
  have he := endsBlock_iff s
  unfold misplaced
  cases ht : (encodingOf i).isThumb <;> cases hn : notInIt i <;> cases hl : lastInIt i <;>
    by_cases h0 : s.cpsr.it = 0#8 <;> by_cases h3 : s.cpsr.it.extractLsb' 0 3 = 0#3 <;>
    simp_all [formOf, placeOf] <;> split <;> rfl

/-- The condition of an instruction that fails it. -/
theorem condition_of_idles {i : Instr} {f : Bool} {s : State} (hn : notInIt i = false)
    (h : idles (encodingOf i) true s = true) :
    ∃ c, condition (formOf i f) s = some c ∧ condHolds c s.cpsr = false := by
  have ho : ownOf i = none := by
    unfold ownOf
    split
    · cases hn
    · rfl
  unfold condition
  cases he : encodingOf i with
  | a32 c =>
    rw [he] at h
    simp only [idles, Bool.and_eq_true, Bool.not_eq_true'] at h
    exact ⟨c, by simp [formOf, ho, he], h.2⟩
  | thumb =>
    rw [he] at h
    simp only [idles, Bool.and_eq_true, Bool.not_eq_true', bne_iff_ne] at h
    obtain ⟨⟨⟨-, h0⟩, h15⟩, hc⟩ := h
    exact ⟨_, by simp [formOf, ho, he, h0, condOfBits_of_ne h15], hc⟩

theorem isThumb_of_idles {e : Enc} {wide : Bool} {s : State} (h : idles e wide s = true) : e.isThumb = s.cpsr.t := by
  cases e <;> simp_all [idles, Enc.isThumb]

/-- Settles O13: the shape of a meaning, and `perform` where the condition fails. -/
theorem failedConditionSkips : Obligations.FailedConditionSkips := by
  intro i s hf hn hi hl
  obtain ⟨f, k, hx, hfull, -, -⟩ := hasShape i s
  obtain ⟨c, hc, hh⟩ := condition_of_idles (f := f) hn hi
  have ha : available (formOf i f) s = true := by
    simp [available, formOf, hfull hf, isThumb_of_idles hi]
  have hm : misplaced (formOf i f) s = none := by
    rw [misplaced_formOf]
    cases ht : (encodingOf i).isThumb <;> cases hl' : lastInIt i <;> simp_all
  rw [hx, perform_skips _ _ _ c ha hm hc hh, itNext_eq]
  cases ht : (encodingOf i).isThumb <;> simp [skip, advanceIt, nextPc, formOf, ht]

/-- Settles O14: availability, then the place, in the shape of a meaning. -/
theorem placeAndStateRefusals : Obligations.PlaceAndStateRefusals := by
  intro i s
  obtain ⟨f, k, hx, hfull, hwide, -⟩ := hasShape i s
  refine ⟨fun ht => ?_, fun ht h2 hs hbl hblx => ?_, fun hf ht hT => ?_⟩
  · rw [hx, perform_unavailable]
    simp [available, formOf, ht]
  · rw [hx, perform_unavailable]
    simp [available, formOf, hwide ht h2 hs hbl hblx]
  · have ha : available (formOf i f) s = true := by simp [available, formOf, hfull hf, ht, hT]
    refine ⟨fun hl hn he => ?_, fun hn h0 => ?_⟩
    · have h0 : s.cpsr.it ≠ 0#8 := fun h0 => by simp [endsBlock, h0] at he
      rw [hx, perform_misplaced _ _ _ .branchInsideIt ha]
      simp [misplaced_formOf, ht, h0, hn, hl, he]
    · rw [hx, perform_misplaced _ _ _ _ ha (by rw [misplaced_formOf, if_pos ⟨ht, h0⟩, if_pos hn])]
      cases i <;> first | rfl | cases hn

end Sys2Proof.Machine
end

section
/-! PROOFS. The invariant of a run (spec 10_state sections 2 and 3, 45_branch_it section 1): it holds at reset, every
exception entry and every instruction keeps it. -/

namespace Sys2Proof.Machine

open Sys2Proof

/-! ### Fields of the CPSR and the parameters -/

/-- The part of the invariant about the CPSR: a state with this CPSR has the fields the processor has, and no others. -/
structure CpsrInv (c : Config) (p : Cpsr) : Prop where
  arm : p.t = false → p.it = 0#8
  j : p.j = false
  thumb : p.t = true → c.haveThumb = true
  t2 : c.haveT2 = false → p.it = 0#8
  v5e : c.haveV5E = false → p.q = false
  v6 : c.haveV6 = false → p.ge = 0#4 ∧ p.e = false ∧ p.a = false

theorem runInv_iff (s : State) :
    RunInv s ↔ Memory.wf s.mem = true ∧ s.cfg.wf = true ∧ pcAligned s = true ∧ CpsrInv s.cfg s.cpsr :=
  ⟨fun ⟨hm, hw, hp, h1, h2, h3, h4, h5, h6⟩ => ⟨hm, hw, hp, h1, h2, h3, h4, h5, h6⟩,
    fun ⟨hm, hw, hp, h1, h2, h3, h4, h5, h6⟩ => ⟨hm, hw, hp, h1, h2, h3, h4, h5, h6⟩⟩

/-- The vector base is 0 or 0xFFFF0000, so a multiple of 4. -/
theorem vectorBase_mod {c : Config} (h : c.wf = true) : c.vectorBase.toNat % 4 = 0 := by
  simp only [Config.wf, Bool.and_eq_true, Bool.or_eq_true, beq_iff_eq] at h
  rcases h.1.2 with hv | hv <;> simp [hv]

theorem cpsrInv_atReset (c : Config) : CpsrInv c (Cpsr.atReset c) :=
  ⟨fun _ => rfl, rfl, fun h => (Bool.and_eq_true_iff.1 h).1, fun _ => rfl, fun _ => rfl,
    fun h => ⟨rfl, by simp [Cpsr.atReset, h], by simp [Cpsr.atReset, h]⟩⟩

/-- Settles O58: the fields of `State.resetFor`, and the alignment of the vector base. -/
theorem invariantHoldsAtReset : Obligations.InvariantHoldsAtReset := by
  have h : ∀ c : Config, c.wf = true → RunInv (State.resetFor c) := fun c hw => by
    refine (runInv_iff _).2 ⟨State.resetFor_mem_wf c, hw, (pcAligned_iff _).2 ?_, cpsrInv_atReset c⟩
    have hv : (State.resetFor c).pc.toNat % 4 = 0 := vectorBase_mod hw
    split <;> omega
  exact ⟨h Config.atReset (by decide), h⟩

/-! ### Exceptions -/

theorem cpsrInv_onEntry {c : Config} {p : Cpsr} (h : CpsrInv c p) (e : Exc) : CpsrInv c (p.onEntry c e) :=
  ⟨fun _ => rfl, rfl, fun ht => (Bool.and_eq_true_iff.1 ht).1, fun _ => rfl, h.v5e,
    fun hv => by
      obtain ⟨hg, he, ha⟩ := h.v6 hv
      exact ⟨hg, by simp [Cpsr.onEntry, hv, he], by simp [Cpsr.onEntry, hv, ha]⟩⟩

theorem vector_mod (e : Exc) : e.vector.toNat % 4 = 0 := by cases e <;> simp [Exc.vector]

/-- Taking an exception keeps the invariant. -/
theorem runInv_takeException {s : State} (h : RunInv s) (e : Exc) : RunInv (takeException e s) := by
  obtain ⟨hm, hw, -, hc⟩ := (runInv_iff s).1 h
  refine (runInv_iff _).2 ⟨by simpa using hm, by simpa using hw, (pcAligned_iff _).2 ?_,
    by simpa using cpsrInv_onEntry hc e⟩
  have hb := vectorBase_mod hw
  have hv := vector_mod e
  rw [takeException_pc, BitVec.toNat_add]
  split <;> omega

/-! ### Instructions -/

@[simp] theorem itAdvance_zero : itAdvance 0#8 = 0#8 := rfl

/-- The IT state after an instruction that is not IT. -/
def itAfter (e : Enc) (it : BitVec 8) : BitVec 8 := if e.isThumb then itAdvance it else it

@[simp] theorem itAfter_zero (e : Enc) : itAfter e 0#8 = 0#8 := by simp [itAfter]

theorem CpsrInv.itAfter {c : Config} {p : Cpsr} (h : CpsrInv c p) (e : Enc) :
    CpsrInv c { p with it := itAfter e p.it } :=
  { h with
    arm := fun ht => by simp [h.arm ht]
    t2 := fun h2 => by simp [h.t2 h2] }

/-- A write that keeps what it must keeps the invariant. -/
theorem CpsrKept.inv {c : Config} {p q : Cpsr} (h : CpsrKept c p q) (hw : c.wf = true) (hp : CpsrInv c p) :
    CpsrInv c q :=
  ⟨fun ht => h.it.trans (hp.arm (h.t ▸ ht)), h.j.trans hp.j, fun ht => hp.thumb (h.t ▸ ht),
    fun h2 => h.it.trans (hp.t2 h2), fun h5 => (h.v5e hw h5).trans (hp.v5e h5),
    fun h6 => by
      obtain ⟨hg, he, ha⟩ := hp.v6 h6
      obtain ⟨hg', he', ha'⟩ := h.v6 h6
      exact ⟨hg'.trans hg, he'.trans he, ha'.trans ha⟩⟩

theorem cpsrInv_restored {c : Config} (w : Word) (m : Mode) : CpsrInv c (Cpsr.restored c w m) := by
  refine ⟨fun ht => if_neg ?_, rfl, fun ht => (Bool.and_eq_true_iff.1 ht).1, fun h2 => if_neg (by simp [h2]),
    fun h5 => by simp [Cpsr.restored, h5], fun h6 => ⟨by simp [Cpsr.restored, h6], by simp [Cpsr.restored, h6],
      by simp [Cpsr.restored, h6]⟩⟩
  have ht' : (c.haveThumb && w.getLsbD 5) = false := ht
  rw [Bool.and_assoc, ht']
  simp

/-- Sizes: an ARM instruction has 4 bytes, a Thumb instruction an even number. -/
theorem sizeOf2_mod (i : Instr) :
    (sizeOf2 i).toNat % 2 = 0 ∧ ((encodingOf i).isThumb = false → (sizeOf2 i).toNat % 4 = 0) := by
  unfold sizeOf2
  split <;> first | exact ⟨rfl, fun _ => rfl⟩ | exact ⟨rfl, fun h => by cases h⟩

/-- The next address is aligned. -/
theorem pcAligned_next {i : Instr} {s : State} (ht : (encodingOf i).isThumb = s.cpsr.t) (hp : pcAligned s = true) :
    if s.cpsr.t then (s.pc + sizeOf2 i).toNat % 2 = 0 else (s.pc + sizeOf2 i).toNat % 4 = 0 := by
  obtain ⟨h2, h4⟩ := sizeOf2_mod i
  rw [pcAligned_iff] at hp
  rw [BitVec.toNat_add]
  cases hT : s.cpsr.t with
  | true =>
    simp only [hT, if_true] at hp ⊢
    omega
  | false =>
    have := h4 (ht.trans hT)
    simp only [hT, Bool.false_eq_true, if_false] at hp ⊢
    omega

/-- An instruction that is skipped keeps the invariant. -/
theorem runInv_skip {i : Instr} {f : Bool} {s : State} (h : RunInv s) (ha : available (formOf i f) s = true) :
    RunInv (skip (formOf i f) s) := by
  obtain ⟨hm, hw, hp, hc⟩ := (runInv_iff s).1 h
  refine (runInv_iff _).2 ⟨by simpa using hm, by simpa using hw, (pcAligned_iff _).2 ?_, ?_⟩
  · simpa [formOf] using pcAligned_next (isThumb_of_available ha) hp
  · simpa [formOf, itAfter] using hc.itAfter (encodingOf i)

/-- Memory stays canonical. -/
theorem MemKept.wf {i : Instr} {s u : State} (h : MemKept i s u) (hm : Memory.wf s.mem = true) :
    Memory.wf u.mem = true := by
  rcases h with he | ⟨-, a, w, v, he, -⟩
  · rw [he]
    exact hm
  · rw [he]
    exact State.storeValue_wf s a w v hm

/-- After a branch there is no IT state left: it stood outside a block, or last in one. -/
theorem itAdvance_of_branch {i : Instr} {f : Bool} {s : State} (hw : flowOf i = .branch)
    (hm : misplaced (formOf i f) s = none) (ht : (encodingOf i).isThumb = true) : itAdvance s.cpsr.it = 0#8 := by
  have hp : notInIt i = true ∨ lastInIt i = true := by
    cases i with
    | sub e sf rd rn o =>
      cases h : writesPc (.sub e sf rd rn o) with
      | false =>
        rw [flowOf_sub h] at hw
        cases hw
      | true =>
        obtain ⟨c, r, i, rfl, rfl, rfl, rfl, rfl⟩ := eq_subs_of_writesPc h
        cases hw
    | _ => first | exact .inl rfl | exact .inr rfl | cases hw
  rw [misplaced_formOf] at hm
  by_cases h0 : s.cpsr.it = 0#8
  · simp [h0]
  · have hl : ¬(lastInIt i = true ∧ endsBlock s = false) ∧ notInIt i = false := by
      cases hn : notInIt i <;> simp_all
    have he : endsBlock s = true := by
      simpa [hp.resolve_left (by simp [hl.2])] using hl.1
    simp [itAdvance, (endsBlock_iff s).1 he]

/-- The end of an effect that keeps what it must keeps the invariant. -/
theorem Keeps.runInv {i : Instr} {f : Bool} {s u : State} (hk : Keeps i s u) (h : RunInv s)
    (ha : available (formOf i f) s = true) (hm : misplaced (formOf i f) s = none) :
    RunInv (finish (formOf i f) u) := by
  obtain ⟨hmem, hw, hp, hc⟩ := (runInv_iff s).1 h
  have ht := isThumb_of_available ha
  have hmem' := hk.mem.wf hmem
  have hf := hk.flow
  have hcfg := hk.cfg
  refine (runInv_iff _).2 ⟨by simpa using hmem', by simpa [hcfg] using hw, ?_⟩
  cases hfl : flowOf i with
  | sequential =>
    rw [hfl] at hf
    have hfin : finish (formOf i f) u = advanceIt (formOf i f) (nextPc (formOf i f) u) := by simp [finish, formOf, hfl]
    have hi := (hf.2.inv hw hc).itAfter (encodingOf i)
    rw [hfin, pcAligned_iff]
    refine ⟨?_, by simpa [hcfg, formOf, itAfter] using hi⟩
    simpa [formOf, hf.1, hf.2.t] using pcAligned_next ht hp
  | branch =>
    rw [hfl] at hf
    obtain ⟨hu, hT, hpa⟩ := hf
    have hfin : finish (formOf i f) u = advanceIt (formOf i f) u := by simp [finish, formOf, hfl]
    have hit : u.cpsr.it = s.cpsr.it := by rw [hu]
    have hz : itAfter (encodingOf i) s.cpsr.it = 0#8 := by
      cases hth : (encodingOf i).isThumb with
      | true => simpa [itAfter, hth] using itAdvance_of_branch hfl hm hth
      | false => simpa [itAfter, hth] using hc.arm (ht ▸ hth)
    have hz' : (if (encodingOf i).isThumb = true then itAdvance s.cpsr.it else s.cpsr.it) = 0#8 := hz
    rw [hfin, pcAligned_iff]
    refine ⟨by simpa using (pcAligned_iff u).1 (hpa hp), ?_⟩
    rw [advanceIt_cpsr, advanceIt_cfg, hcfg]
    have hzu : (if (formOf i f).enc.isThumb = true then itAdvance u.cpsr.it else u.cpsr.it) = 0#8 := by
      rw [hit]
      exact hz'
    rw [hzu, hu]
    exact ⟨fun _ => rfl, hc.j, fun h1 => (hT h1).elim hc.thumb id, fun _ => rfl, hc.v5e, hc.v6⟩
  | ret =>
    rw [hfl] at hf
    obtain ⟨-, ⟨w, m, hu⟩, hpa⟩ := hf
    have hfin : finish (formOf i f) u = u := by simp [finish, formOf, hfl]
    rw [hfin, hu, hcfg]
    exact ⟨hpa, cpsrInv_restored w m⟩
  | itself =>
    rw [hfl] at hf
    obtain ⟨hpc, h2, hT, hu⟩ := hf
    have hfin : finish (formOf i f) u = nextPc (formOf i f) u := by simp [finish, formOf, hfl]
    have hut : u.cpsr.t = s.cpsr.t := by rw [hu]
    rw [hfin, pcAligned_iff]
    refine ⟨by simpa [formOf, hpc, hut] using pcAligned_next ht hp, ?_⟩
    rw [nextPc_cpsr, nextPc_cfg, hcfg, hu]
    exact ⟨fun h0 => absurd (hT.symm.trans h0) (by simp), hc.j, hc.thumb,
      fun h0 => absurd (h2.symm.trans h0) (by simp), hc.v5e, hc.v6⟩

/-- The number of the step is not part of the invariant. -/
theorem runInv_stepNo {s : State} (h : RunInv s) (n : Nat) : RunInv { s with stepNo := n } := h

/-- Settles O59: a step takes an exception or executes an instruction, whose effect keeps what `Keeps` says. -/
theorem invariantKept : Obligations.InvariantKept := by
  intro s t h hs
  obtain ⟨u, rfl, ⟨x, -, rfl⟩ | ⟨-, i, hx⟩⟩ := step_next hs
  · exact runInv_stepNo (runInv_takeException h x) _
  · refine runInv_stepNo ?_ _
    obtain ⟨f, ha, hm, ⟨v, hk, rfl⟩ | ⟨x, -, rfl⟩ | rfl⟩ := exec_next hx
    · exact hk.runInv h ha hm
    · exact runInv_takeException h x
    · exact runInv_skip h ha

end Sys2Proof.Machine
end

section
/-! SUPPORT and PROOFS. Saturation (spec 00_scope R11), and data processing (spec 40_add_subtract,
43_move_shift_compare_logical): the sums as the statements write them, what `<Operand2>` decides, the results. -/

namespace Sys2Proof.Machine

open Sys2Proof

/-! ### Saturation -/

/-- Settles O3: each bound is compared once. -/
theorem saturation : Obligations.Saturation := by
  intro i n
  refine ⟨fun hn => ?_, ?_⟩
  · unfold signedSatQ clampS
    have hp : (0 : Int) < 2 ^ (n - 1) := by positivity
    split
    · simp only [true_iff]
      omega
    · split
      · simp only [true_iff]
        omega
      · simp only [Bool.false_eq_true, false_iff, not_not]
        omega
  · unfold unsignedSatQ clampU
    have hp : (0 : Int) < 2 ^ n := by positivity
    split
    · simp only [true_iff]
      omega
    · split
      · simp only [true_iff]
        omega
      · simp only [Bool.false_eq_true, false_iff, not_not]
        omega

theorem signedSatQ_eq {n : Nat} (hn : 1 ≤ n) (i : Int) : signedSatQ i n = (clampS n i, clampS n i != i) := by
  obtain ⟨h1, h2⟩ := (saturation i n).1 hn
  refine Prod.ext h1 ?_
  rw [Bool.eq_iff_iff, h2, bne_iff_ne]

theorem unsignedSatQ_eq (n : Nat) (i : Int) : unsignedSatQ i n = (clampU n i, clampU n i != i) := by
  obtain ⟨-, h1, h2⟩ := saturation i n
  refine Prod.ext h1 ?_
  rw [Bool.eq_iff_iff, h2, bne_iff_ne]

/-! ### Flags -/

theorem setNZ_eq (p : Cpsr) (r : Word) : p.setNZ r = withNZ p r := by
  have hz : (r == 0#32) = decide (r.toNat = 0) := by
    rw [beq_eq_decide]
    exact decide_eq_decide.2 BitVec.toNat_eq
  rw [Cpsr.setNZ, withNZ, BitVec.msb_eq_toInt, hz]

theorem setNZC_eq (p : Cpsr) (r : Word) (c : Bool) : p.setNZC r c = { withNZ p r with c := c } := by
  rw [← setNZ_eq]
  rfl

theorem setNZCV_eq (p : Cpsr) (r : Word) (c v : Bool) : p.setNZCV r c v = { withNZ p r with c := c, v := v } := by
  rw [← setNZ_eq]
  rfl

@[simp] theorem withNZ_it (p : Cpsr) (r : Word) : (withNZ p r).it = p.it := rfl

theorem stickQ_eq (p : Cpsr) (b : Bool) : p.stickQ b = withQ p b := by
  cases b <;> simp [Cpsr.stickQ, withQ]

@[simp] theorem withQ_it (p : Cpsr) (b : Bool) : (withQ p b).it = p.it := by cases b <;> rfl

/-! ### Sums -/

theorem addWithCarry_eq (a b : Word) (cin : Bool) :
    addWithCarry a b cin = (a + b + BitVec.ofNat 32 cin.toNat, decide (2 ^ 32 ≤ a.toNat + b.toNat + cin.toNat),
      outside (a.toInt + b.toInt + cin.toNat)) := by
  refine Prod.ext ?_ (Prod.ext ?_ ?_)
  · rw [addWithCarry_result]
    cases cin <;> rfl
  · rw [Bool.eq_iff_iff, addWithCarry_carry, decide_eq_true_iff]
  · rw [Bool.eq_iff_iff, addWithCarry_overflow, outside, decide_eq_true_iff]

theorem addWithCarry_comm (a b : Word) (cin : Bool) : addWithCarry a b cin = addWithCarry b a cin := by
  simp only [addWithCarry, Nat.add_comm a.toNat, Int.add_comm a.toInt]

theorem toInt_not (b : Word) : (~~~b).toInt = -b.toInt - 1 := by
  rw [BitVec.toInt_not, BitVec.toInt_eq_toNat_bmod, Int.bmod_def, Int.bmod_def]
  have := b.isLt
  omega

/-- A difference with its borrow `!cin` (R9). -/
theorem addWithCarry_not_eq (a b : Word) (cin : Bool) :
    addWithCarry a (~~~b) cin = (a - b - BitVec.ofNat 32 (!cin).toNat, decide (b.toNat + (!cin).toNat ≤ a.toNat),
      outside (a.toInt - b.toInt - (!cin).toNat)) := by
  refine Prod.ext ?_ (Prod.ext ?_ ?_)
  · rw [addWithCarry_not_result]
    cases cin <;> rfl
  · rw [Bool.eq_iff_iff, addWithCarry_carry, decide_eq_true_iff, BitVec.toNat_not]
    cases cin <;> simp <;> omega
  · rw [addWithCarry_eq]
    refine congrArg outside ?_
    rw [toInt_not]
    cases cin <;> simp <;> omega

/-! ### `<Operand2>` -/

/-- An operand without a value is an immediate that is unpredictable (R135). -/
theorem op2_error {s : State} {o : Op2} {x : Stop} (h : op2 s o = .error x) : x = .refuse .unpredictableImmediate := by
  cases o with
  | immT i =>
    simp only [op2, thumbExpandImm] at h
    split at h
    · split at h
      · cases h
      · split at h
        · cases h
          rfl
        · split at h
          · cases h
          · split at h <;> cases h
    · cases h
  | immA r i => cases h
  | reg rm ty i => cases h
  | regReg rm ty rs => cases h

theorem checks_noSp {e : Enc} {b : Bool} {l : List Reg} :
    (∀ x ∈ (if b then [] else l.map (noSp e)), x.1 = false) ↔ ∀ r ∈ l, (!e.isThumb || b || r != 13#4) = true := by
  cases b <;> cases h : e.isThumb <;> simp [noSp, h]

/-- The checks of `dpChecks` all pass exactly where the operands are allowed (R113). -/
theorem dpChecks_pass (e : Enc) (d n : List Reg) (o : Op2) (spD spN spM : Bool) :
    (∀ x ∈ dpChecks e d n o spD spN spM, x.1 = false) ↔ dpOk e d n o spD spN spM = true := by
  have happ : ∀ {p q : List (Bool × Refusal)},
      (∀ x ∈ p ++ q, x.1 = false) ↔ (∀ x ∈ p, x.1 = false) ∧ ∀ x ∈ q, x.1 = false := by
    intro p q
    simp only [List.mem_append, or_imp, forall_and]
  have hd : (∀ x ∈ d.map destPc, x.1 = false) ↔ ∀ r ∈ d, (r != 15#4) = true := by simp [destPc]
  have hs : (∀ x ∈ (n ++ op2Regs o).map (dpSrcPc e o), x.1 = false) ↔
      ∀ r ∈ n ++ op2Regs o, (r != 15#4 || (!e.isThumb && !op2RegReg o)) = true := by
    rw [List.forall_mem_map]
    refine forall₂_congr fun r _ => ?_
    cases h : e.isThumb <;> cases h' : op2RegReg o <;> simp [dpSrcPc, h, h']
  simp only [dpChecks, dpOk, happ, hd, hs, checks_noSp, Bool.and_eq_true, List.all_eq_true, forall_and]
  tauto

/-- The refusals of `dpChecks` are those of R113. -/
theorem dpChecks_refusals (e : Enc) (d n : List Reg) (o : Op2) (spD spN spM : Bool) :
    ∀ x ∈ (dpChecks e d n o spD spN spM).map Prod.snd,
      x ∈ [Refusal.pcAsDestination, .pcOperand, .spOperand, .sameRegister] := by
  intro x hx
  obtain ⟨y, hy, rfl⟩ := List.mem_map.1 hx
  have hsp : ∀ {b : Bool} {l : List Reg}, y ∈ (if b then [] else l.map (noSp e)) → y.2 = .spOperand := by
    intro b l h
    cases b
    · obtain ⟨a, -, rfl⟩ := List.mem_map.1 h
      rfl
    · cases h
  simp only [dpChecks, List.mem_append, List.mem_map] at hy
  rcases hy with (((⟨a, -, rfl⟩ | ⟨a, -, rfl⟩) | h) | h) | h
  · simp [destPc]
  · simp [dpSrcPc]
  · simp [hsp h]
  · simp [hsp h]
  · simp [hsp h]

/-- Data processing: where the value of `<Operand2>` is `(v, c)` the effect is `g (v, c)`. -/
theorem givesOp2_of {i : Instr} {s : State} {f0 feature allowed : Bool} {d n : List Reg} {o : Op2} {spD spN spM : Bool}
    {g : Word × Bool → State} {f : Word → Bool → List (Reg × Word) × Cpsr}
    (hu : ∀ v c, Becomes s (g (v, c)) (f v c).1 (f v c).2 s.pc s.ac s.draws s.byteAt)
    (hit : ∀ v c, (f v c).2.it = s.cpsr.it)
    (hx : exec i s = perform (form4 s.cfg (encodingOf i) f0) s
      (checked (dpChecks (encodingOf i) d n o spD spN spM)
        (match op2 s o with
         | .error x => .error x
         | .ok v => .ok (g v))) := by unfold exec; exact rfl)
    (hs : sizeOf2 i = 4#32 := by rfl)
    (hf : (f0 && (!(encodingOf i).isThumb || s.cfg.haveT2)) = feature := by rfl)
    (ha : dpOk (encodingOf i) d n o spD spN spM = allowed := by rfl) : GivesOp2 i s feature allowed o f := by
  subst hf ha
  have hf0 : (f0 && (!(encodingOf i).isThumb || s.cfg.haveT2)) = true → f0 = true := by simp +contextual
  have hpass := dpChecks_pass (encodingOf i) d n o spD spN spM
  refine ⟨fun h => ?_, fun h hr ha v c ho => ?_, fun h hr ha ho => ?_, fun h hr ha => ?_⟩
  · rw [hx]
    exact perform_form4_absent _ _ _ _ _ h
  · refine ⟨finish (form4 s.cfg (encodingOf i) f0) (g (v, c)), ?_, ?_⟩
    · rw [hx, perform_form4_runs _ _ _ _ _ rfl (hf0 h) hr, checked_ok _ _ (hpass.2 ha), ho]
    · rw [hs]
      exact becomes_finish_form4 _ _ _ _ _ _ _ _ _ _ (hu v c) (hit v c)
  · rw [hx, perform_form4_runs _ _ _ _ _ rfl (hf0 h) hr, checked_ok _ _ (hpass.2 ha)]
    cases ho2 : op2 s o with
    | ok v => exact absurd ho2 (ho v)
    | error x => rw [op2_error ho2]
  · obtain ⟨r, hm, he⟩ := checked_bad (dpChecks (encodingOf i) d n o spD spN spM) (match op2 s o with
         | .error x => .error x
         | .ok v => .ok (g v)) (by rw [← checks_fail, hpass, ha]; simp)
    refine ⟨r, ?_, dpChecks_refusals _ _ _ _ _ _ _ r hm⟩
    rw [hx, perform_form4_runs _ _ _ _ _ rfl (hf0 h) hr, he]

/-- A register and, with S, the flags. -/
theorem becomes_setReg_withFlags (s : State) (rd : Reg) (v : Word) (sf : Bool) (p : Cpsr) :
    Becomes s ((s.setReg rd v).withFlags sf p) [(rd, v)] (if sf then p else s.cpsr) s.pc s.ac s.draws s.byteAt := by
  have h := becomes_setReg s rd v (if sf then p else s.cpsr)
  cases sf
  · have he : { s.setReg rd v with cpsr := s.cpsr } = s.setReg rd v := by rw [← State.setReg_cpsr s rd v]
    rw [if_neg Bool.false_ne_true, he] at h
    exact h
  · exact h

theorem becomes_withFlags (s : State) (p : Cpsr) : Becomes s (s.withFlags true p) [] p s.pc s.ac s.draws s.byteAt :=
  ⟨fun _ => rfl, rfl, rfl, rfl, rfl, fun _ => rfl, rfl, rfl, rfl, rfl, rfl, rfl, rfl⟩

/-! ### Add and subtract -/

/-- What an arithmetic instruction gives, its sum as the statements write it. -/
theorem givesOp2_arith {i : Instr} {s : State} {sf near : Bool} {rd rn : Reg} {o : Op2} {feature allowed : Bool}
    {fn : Word → Word → Bool → Word × Bool × Bool} {r : Word → Word} {cf vf : Word → Bool}
    (hfn : ∀ v, fn (s.reg rn) v s.cpsr.c = (r v, cf v, vf v))
    (hx : exec i s = arith (encodingOf i) sf rd rn o near s fn := by unfold exec; exact rfl)
    (hs : sizeOf2 i = 4#32 := by rfl)
    (hf : (true && (!(encodingOf i).isThumb || s.cfg.haveT2)) = feature := by rfl)
    (ha : dpOk (encodingOf i) [rd] [rn] o near near false = allowed := by rfl) :
    GivesOp2 i s feature allowed o fun v _ =>
      ([(rd, r v)], if sf then { withNZ s.cpsr (r v) with c := cf v, v := vf v } else s.cpsr) := by
  refine givesOp2_of (fun v c => ?_) (fun v c => by cases sf <;> rfl) hx hs hf ha
  simp only [hfn, setNZCV_eq]
  exact becomes_setReg_withFlags _ _ _ _ _

/-- Settles O15: the three results of `AddWithCarry` for each instruction. -/
theorem arithmeticResults : Obligations.ArithmeticResults := by
  intro e c sf rd rn o s
  refine ⟨givesOp2_arith fun v => ?_, givesOp2_arith fun v => ?_, fun hw => givesOp2_arith (fun v => ?_) (exec_sub hw),
    givesOp2_arith fun v => ?_, givesOp2_arith fun v => ?_, givesOp2_arith fun v => ?_⟩
  · simp [addWithCarry_eq]
  · simp [addWithCarry_eq]
  · simp [addWithCarry_not_eq]
  · simp [addWithCarry_not_eq]
  · simp [addWithCarry_comm (~~~s.reg rn), addWithCarry_not_eq]
  · simp [addWithCarry_comm (~~~s.reg rn), addWithCarry_not_eq]

/-! ### Compares -/

theorem givesOp2_arithTest {i : Instr} {s : State} {rn : Reg} {o : Op2} {feature allowed : Bool}
    {fn : Word → Word → Bool → Word × Bool × Bool} {r : Word → Word} {cf vf : Word → Bool}
    (hfn : ∀ v, fn (s.reg rn) v s.cpsr.c = (r v, cf v, vf v))
    (hx : exec i s = arithTest (encodingOf i) rn o s fn := by unfold exec; exact rfl)
    (hs : sizeOf2 i = 4#32 := by rfl)
    (hf : (true && (!(encodingOf i).isThumb || s.cfg.haveT2)) = feature := by rfl)
    (ha : dpOk (encodingOf i) [] [rn] o false true false = allowed := by rfl) :
    GivesOp2 i s feature allowed o fun v _ => ([], { withNZ s.cpsr (r v) with c := cf v, v := vf v }) := by
  refine givesOp2_of (fun v c => ?_) (fun v c => rfl) hx hs hf ha
  simp only [hfn, setNZCV_eq]
  exact becomes_withFlags _ _

theorem givesOp2_logicalTest {i : Instr} {s : State} {rn : Reg} {o : Op2} {feature allowed : Bool}
    {fn : Word → Word → Word}
    (hx : exec i s = logicalTest (encodingOf i) rn o s fn := by unfold exec; exact rfl)
    (hs : sizeOf2 i = 4#32 := by rfl)
    (hf : (true && (!(encodingOf i).isThumb || s.cfg.haveT2)) = feature := by rfl)
    (ha : dpOk (encodingOf i) [] [rn] o false false false = allowed := by rfl) :
    GivesOp2 i s feature allowed o fun v cf => ([], { withNZ s.cpsr (fn (s.reg rn) v) with c := cf }) := by
  refine givesOp2_of (fun v c => ?_) (fun v c => rfl) hx hs hf ha
  simp only [setNZC_eq]
  exact becomes_withFlags _ _

/-- Settles O16: the flags of a subtraction and a sum, and those of a logical result. -/
theorem compareResults : Obligations.CompareResults := by
  intro e rn o s
  refine ⟨givesOp2_arithTest fun v => ?_, givesOp2_arithTest fun v => ?_,
    givesOp2_logicalTest (fn := fun a b => a &&& b), givesOp2_logicalTest (fn := fun a b => a ^^^ b)⟩
  · simp [addWithCarry_not_eq]
  · simp [addWithCarry_eq]

/-! ### Logical instructions and moves -/

theorem givesOp2_logical {i : Instr} {s : State} {f0 sf : Bool} {rd rn : Reg} {o : Op2} {feature allowed : Bool}
    {fn : Word → Word → Word}
    (hx : exec i s = logical f0 (encodingOf i) sf rd rn o s fn := by unfold exec; exact rfl)
    (hs : sizeOf2 i = 4#32 := by rfl)
    (hf : (f0 && (!(encodingOf i).isThumb || s.cfg.haveT2)) = feature := by rfl)
    (ha : dpOk (encodingOf i) [rd] [rn] o false false false = allowed := by rfl) :
    GivesOp2 i s feature allowed o fun v cf =>
      ([(rd, fn (s.reg rn) v)], if sf then { withNZ s.cpsr (fn (s.reg rn) v) with c := cf } else s.cpsr) := by
  refine givesOp2_of (fun v c => ?_) (fun v c => by cases sf <;> rfl) hx hs hf ha
  simp only [setNZC_eq]
  exact becomes_setReg_withFlags _ _ _ _ _

/-- Settles O17: the logical shape with each of the five functions. -/
theorem logicalResults : Obligations.LogicalResults := by
  intro e sf rd rn o s
  exact ⟨givesOp2_logical (fn := fun a b => a &&& b), givesOp2_logical (fn := fun a b => a ^^^ b),
    givesOp2_logical (fn := fun a b => a ||| b), givesOp2_logical (fn := fun a b => a &&& ~~~b),
    givesOp2_logical (fn := fun a b => a ||| ~~~b) (hf := by simp [encodingOf, Enc.isThumb])⟩

theorem givesOp2_move {i : Instr} {s : State} {sf sp : Bool} {rd : Reg} {o : Op2} {feature allowed : Bool}
    {fn : Word → Word}
    (hx : exec i s = move (encodingOf i) sf rd o sp s fn := by unfold exec; exact rfl)
    (hs : sizeOf2 i = 4#32 := by rfl)
    (hf : (true && (!(encodingOf i).isThumb || s.cfg.haveT2)) = feature := by rfl)
    (ha : dpOk (encodingOf i) [rd] [] o sp false sp = allowed := by rfl) :
    GivesOp2 i s feature allowed o fun v cf =>
      ([(rd, fn v)], if sf then { withNZ s.cpsr (fn v) with c := cf } else s.cpsr) := by
  refine givesOp2_of (fun v c => ?_) (fun v c => by cases sf <;> rfl) hx hs hf ha
  simp only [setNZC_eq]
  exact becomes_setReg_withFlags _ _ _ _ _

/-- RRX as arithmetic: the carry comes in at the top. -/
theorem rrxC_eq (v : Word) (cin : Bool) :
    rrxC v cin = (BitVec.ofNat 32 (cin.toNat * 2 ^ 31 + v.toNat / 2), decide (v.toNat % 2 = 1)) := by
  refine Prod.ext (BitVec.eq_of_toNat_eq ?_) (getLsbD_zero_eq v)
  have := v.isLt
  simp only [rrxC, BitVec.toNat_append, BitVec.toNat_ofBool, BitVec.extractLsb'_toNat, BitVec.toNat_ofNat,
    Nat.shiftRight_eq_div_pow]
  rw [Nat.shiftLeft_eq, ← Nat.mul_comm (2 ^ 31), ← Nat.two_pow_add_eq_or_of_lt (by omega)]
  cases cin <;> simp <;> omega

/-- Settles O18: RRX is MOV with an operand that always has a value. -/
theorem moveResults : Obligations.MoveResults := by
  intro e sf rd rm o s
  have hrrx : op2 s (.reg rm .ror 0#5) = .ok (rrxC (s.reg rm) s.cpsr.c) := rfl
  obtain ⟨h1, h2, -, h4⟩ : GivesOp2 (.rrx e sf rd rm) s (!e.isThumb || s.cfg.haveT2)
      (dpOk e [rd] [] (.reg rm .ror 0#5) false false false) (.reg rm .ror 0#5) fun v cf =>
        ([(rd, v)], if sf then { withNZ s.cpsr v with c := cf } else s.cpsr) := givesOp2_move (fn := fun v => v)
  refine ⟨givesOp2_move (fn := fun v => v), ?_, ⟨h1, fun hf hr ha => ?_, h4⟩, rfl⟩
  · have hnot : ∀ v : Word, 0xFFFFFFFF#32 ^^^ v = ~~~v := fun v => BitVec.allOnes_xor
    simp only [hnot]
    exact givesOp2_move (fn := fun v => ~~~v)
  · have := h2 hf hr ha _ _ (hrrx.trans (congrArg _ (rrxC_eq _ _)))
    exact this

end Sys2Proof.Machine
end

section
/-! SUPPORT and PROOFS. Shifts by register, wide immediates, saturating and parallel arithmetic (spec 40_add_subtract,
41_parallel_saturate, 43_move_shift_compare_logical): the result of each instruction as the statements write it. -/

namespace Sys2Proof.Machine

open Sys2Proof

/-! ### Instructions that write one register -/

/-- An instruction that writes the register `rd` and nothing else. -/
theorem gives_setReg {i : Instr} {s : State} {f0 feature allowed : Bool} {d r : List Reg} {rd : Reg}
    {g : State → Word} {v : Word} (hv : g s = v)
    (hx : exec i s = plainOp f0 (encodingOf i) d r s (fun s => s.setReg rd (g s)) := by unfold exec; exact rfl)
    (hs : sizeOf2 i = 4#32 := by rfl)
    (hf : (f0 && (!(encodingOf i).isThumb || s.cfg.haveT2)) = feature := by rfl)
    (ha : plainOk (encodingOf i) (d ++ r) = allowed := by rfl) :
    Gives i s feature allowed [(rd, v)] s.cpsr := by
  subst hv
  exact gives_plainOp i s f0 feature allowed d r _ _ _ hx hs hf ha 
    (becomes_setReg_withFlags s rd (g s) false s.cpsr) rfl

/-- An instruction that writes `rd` and sets Q where `q`. -/
theorem gives_setRegQ {i : Instr} {s : State} {f0 feature allowed : Bool} {d r : List Reg} {rd : Reg}
    {g : State → Word} {h : State → Bool} {v : Word} {q : Bool} (hv : g s = v) (hq : h s = q)
    (hx : exec i s = plainOp f0 (encodingOf i) d r s (fun s => s.setRegQ rd (g s) (h s)) := by unfold exec; exact rfl)
    (hs : sizeOf2 i = 4#32 := by rfl)
    (hf : (f0 && (!(encodingOf i).isThumb || s.cfg.haveT2)) = feature := by rfl)
    (ha : plainOk (encodingOf i) (d ++ r) = allowed := by rfl) :
    Gives i s feature allowed [(rd, v)] (withQ s.cpsr q) := by
  subst hv hq
  have hu : s.setRegQ rd (g s) (h s) = { s.setReg rd (g s) with cpsr := withQ s.cpsr (h s) } := by
    simp [State.setRegQ, stickQ_eq]
  exact gives_plainOp i s f0 feature allowed d r _ _ _ hx hs hf ha (hu ▸ becomes_setReg s rd _ _) (withQ_it _ _)

theorem and_thumb_or (c : Config) (e : Enc) : (c.haveT2 && (!e.isThumb || c.haveT2)) = c.haveT2 := by
  cases c.haveT2 <;> simp

/-! ### Shifts by register -/

theorem toNat_low_byte (v : Word) : (v.extractLsb' 0 8).toNat = v.toNat % 256 := by
  simp [BitVec.extractLsb'_toNat]

/-- What a shift by the low byte of `rs` gives. -/
theorem gives_shiftReg {i : Instr} {s : State} {ty : ShiftType} {sf : Bool} {rd rm rs : Reg}
    (hx : exec i s = shiftReg ty sf rd rm rs s := by unfold exec; exact rfl) (he : encodingOf i = .thumb := by rfl)
    (hs : sizeOf2 i = 4#32 := by rfl) :
    let r := shiftC (s.reg rm) ty ((s.reg rs).toNat % 256) s.cpsr.c
    Gives i s s.cfg.haveT2 (plainOk .thumb [rd, rm, rs]) [(rd, r.1)]
      (if sf then { withNZ s.cpsr r.1 with c := r.2 } else s.cpsr) := by
  intro r
  refine gives_of_form4 i s ((s.setReg rd r.1).withFlags sf { withNZ s.cpsr r.1 with c := r.2 }) true _ _ _ _
    (plainChecks .thumb [rd] [rm, rs]) ?_ hs (by rw [he]; rfl) (plainChecks_pass _ _ _) (plainChecks_refusals _ _ _)
    (becomes_setReg_withFlags _ _ _ _ _) (by cases sf <;> rfl)
  rw [hx, he, shiftReg, toNat_low_byte]
  simp only [setNZC_eq]
  rfl

/-- Settles O19: the shape of the shifts by a register with each shift type. -/
theorem shiftByRegisterResults : Obligations.ShiftByRegisterResults := by
  intro sf rd rm rs s
  exact ⟨gives_shiftReg, gives_shiftReg, gives_shiftReg, gives_shiftReg⟩

/-! ### Wide immediates -/

theorem toNat_append_low (x : BitVec 16) (v : Word) :
    x ++ v.extractLsb' 0 16 = BitVec.ofNat 32 (x.toNat * 65536 + v.toNat % 65536) := by
  apply BitVec.eq_of_toNat_eq
  rw [BitVec.toNat_append, BitVec.extractLsb'_toNat, Nat.shiftLeft_eq, ← Nat.mul_comm (2 ^ 16),
    ← Nat.two_pow_add_eq_or_of_lt (by omega), BitVec.toNat_ofNat]
  simp
  omega

/-- The wide ADD, SUB and ADR: the destination and, where there is one, the base may not be R15. -/
theorem gives_wide {i : Instr} {s : State} {l : List (Bool × Refusal)} {allowed : Bool} {rd : Reg} {v : Word}
    (hl : (∀ x ∈ l, x.1 = false) ↔ allowed = true)
    (hr : ∀ x ∈ l.map Prod.snd, x ∈ [Refusal.pcAsDestination, .pcOperand, .spOperand, .sameRegister])
    (hx : exec i s = perform (form4 s.cfg .thumb s.cfg.haveT2) s (checked l (.ok (s.setReg rd v))) := by
      unfold exec; exact rfl)
    (he : encodingOf i = .thumb := by rfl) (hs : sizeOf2 i = 4#32 := by rfl) :
    Gives i s s.cfg.haveT2 allowed [(rd, v)] s.cpsr :=
  gives_of_form4 i s _ s.cfg.haveT2 _ _ _ _ l (he ▸ hx) hs (and_thumb_or _ _) hl hr
    (becomes_setReg_withFlags s rd v false s.cpsr) rfl

/-- An instruction of the other instruction set has nothing to give. -/
theorem gives_of_not_runs {i : Instr} {s : State} {feature allowed : Bool} {w : List (Reg × Word)} {p : Cpsr}
    (h : feature = false → exec i s = .refused .notAvailable) (hr : runs (encodingOf i) true s = false) :
    Gives i s feature allowed w p :=
  ⟨h, fun _ hr' => absurd (hr.symm.trans hr') (by simp), fun _ hr' => absurd (hr.symm.trans hr') (by simp)⟩

/-- Settles O20: the written word as a number; ADR adds to the PC aligned to 4. -/
theorem wideImmediateResults : Obligations.WideImmediateResults := by
  intro e rd rn i16 i12 add s
  have hp2 : (∀ x ∈ [destPc rd, srcPc rn], x.1 = false) ↔ (rd != 15#4 && rn != 15#4) = true := by
    simp [destPc, srcPc]
  have hr2 : ∀ x ∈ [destPc rd, srcPc rn].map Prod.snd,
      x ∈ [Refusal.pcAsDestination, .pcOperand, .spOperand, .sameRegister] := by simp [destPc, srcPc]
  refine ⟨gives_setReg ?_ (hf := and_thumb_or _ _), gives_setReg ?_ (hf := and_thumb_or _ _), ?_, ?_, ?_⟩
  · exact (BitVec.ofNat_toNat _ _).symm
  · exact toNat_append_low _ _
  · rw [BitVec.ofNat_toNat]
    exact gives_wide hp2 hr2
  · rw [BitVec.ofNat_toNat]
    exact gives_wide hp2 hr2
  · have h : Gives (.adr add rd i12) s s.cfg.haveT2 (rd != 15#4)
        [(rd, offsetBy add (align4 s.pcRead) (i12.setWidth 32))] s.cpsr :=
      gives_wide (l := [destPc rd]) (by simp [destPc]) (by simp [destPc])
    cases ht : s.cpsr.t with
    | false => exact gives_of_not_runs h.1 (by simp [runs, encodingOf, ht])
    | true =>
      have hv : align4 s.pcRead = (s.pc + 4#32) &&& ~~~3#32 := by rw [align4, State.pcRead, if_pos ht]; rfl
      rw [hv, ← BitVec.ofNat_toNat] at h
      exact h

/-! ### Saturating add and subtract -/

/-- A value is changed by saturation to 32 bits just where it is no signed word. -/
theorem clampS_ne (x : Int) : (clampS 32 x != x) = outside x := by
  rw [Bool.eq_iff_iff, bne_iff_ne, outside, decide_eq_true_iff, clampS]
  omega

theorem sat32_eq (x : Int) : sat32 x = (clampS 32 x, outside x) := by
  rw [sat32, signedSatQ_eq (by decide), clampS_ne]

/-- Settles O21: a saturation to 32 bits is a bound, and changes the values outside it. -/
theorem saturatingAddResults : Obligations.SaturatingAddResults := by
  intro e rd rm rn s
  refine ⟨gives_setRegQ ?_ ?_, gives_setRegQ ?_ ?_, gives_setRegQ ?_ ?_, gives_setRegQ ?_ ?_⟩ <;>
    simp only [sat32_eq]

/-! ### Parallel add and subtract -/

theorem extractLsb'_eq_setWidth {n : Nat} (v : BitVec n) (k w : Nat) :
    v.extractLsb' k w = (v >>> k).setWidth w := by
  apply BitVec.eq_of_toNat_eq
  simp [BitVec.extractLsb'_toNat]

/-- The lane result of each kind, with the saturation as a bound. -/
theorem laneResult_eq (p : ParPrefix) {w : Nat} (hw : 1 ≤ w) (x : Int) : laneResult p w x = laneOut p w x := by
  cases p <;> simp [laneResult, laneOut, signedSatQ_eq hw, unsignedSatQ_eq, Int.fdiv_eq_ediv_of_nonneg]

theorem parSigned_eq (p : ParPrefix) : parSigned p = decide (p = .s ∨ p = .q ∨ p = .sh) := by cases p <;> rfl

theorem parWritesGe_eq (p : ParPrefix) : parWritesGe p = decide (p = .s ∨ p = .u) := by cases p <;> rfl

theorem exec_par16 (p : ParPrefix) (op : HalfOp) (e : Enc) (rd rn rm : Reg) (s : State) :
    exec (par16 p op e rd rn rm) s = parallel16 p op e rd rn rm s := by
  cases p <;> cases op <;> rfl

theorem encodingOf_par16 (p : ParPrefix) (op : HalfOp) (e : Enc) (rd rn rm : Reg) :
    encodingOf (par16 p op e rd rn rm) = e := by
  cases p <;> cases op <;> rfl

theorem sizeOf2_par16 (p : ParPrefix) (op : HalfOp) (e : Enc) (rd rn rm : Reg) :
    sizeOf2 (par16 p op e rd rn rm) = 4#32 := by
  cases p <;> cases op <;> rfl

theorem exec_par8 (p : ParPrefix) (sub : Bool) (e : Enc) (rd rn rm : Reg) (s : State) :
    exec (par8 p sub e rd rn rm) s = parallel8 p sub e rd rn rm s := by
  cases p <;> cases sub <;> rfl

theorem encodingOf_par8 (p : ParPrefix) (sub : Bool) (e : Enc) (rd rn rm : Reg) :
    encodingOf (par8 p sub e rd rn rm) = e := by
  cases p <;> cases sub <;> rfl

theorem sizeOf2_par8 (p : ParPrefix) (sub : Bool) (e : Enc) (rd rn rm : Reg) :
    sizeOf2 (par8 p sub e rd rn rm) = 4#32 := by
  cases p <;> cases sub <;> rfl

/-- A register, and GE where its kind writes it. -/
theorem becomes_setReg_ge (s : State) (rd : Reg) (v : Word) (b : Bool) (g : BitVec 4) :
    Becomes s (if b then { s.setReg rd v with cpsr := { (s.setReg rd v).cpsr with ge := g } } else s.setReg rd v)
      [(rd, v)] (if b then { s.cpsr with ge := g } else s.cpsr) s.pc s.ac s.draws s.byteAt := by
  cases b
  · exact becomes_setReg_withFlags s rd v false s.cpsr
  · rw [State.setReg_cpsr]
    exact becomes_setReg s rd v _

/-- The lanes of a halfword operation, with the halves taken by shifts. -/
theorem halfLanes_eq (sg : Bool) (op : HalfOp) (n m : Word) :
    let v (w : Word) (top : Bool) : Int := laneInt sg ((if top then w >>> 16 else w).setWidth 16 : BitVec 16)
    halfLanes sg op n m =
      ((match op with
        | .add16 => v n false + v m false
        | .sub16 => v n false - v m false
        | .asx => v n false - v m true
        | .sax => v n false + v m true),
       (match op with
        | .add16 => v n true + v m true
        | .sub16 => v n true - v m true
        | .asx => v n true + v m false
        | .sax => v n true - v m false)) := by
  cases op <;> simp [halfLanes, laneVal, laneInt, extractLsb'_eq_setWidth]

theorem geOfHalves_eq (hi lo : Bool) : geOfHalves hi lo = BitVec.ofNat 4 (lo.toNat * 3 + hi.toNat * 12) := by
  cases hi <;> cases lo <;> rfl

/-- GE of a lane, for the two prefixes that write it. -/
theorem laneGe_eq {p : ParPrefix} (hp : p = .s ∨ p = .u) (adds : Bool) (w : Nat) (x : Int) :
    laneGe p adds w x = if p = .s ∨ adds = false then decide (0 ≤ x) else decide (2 ^ w ≤ x) := by
  rcases hp with rfl | rfl <;> cases adds <;> simp [laneGe, parSigned]

/-- Settles O22: the lanes, and GE of the prefixes that write it. -/
theorem parallelHalfwordResults : Obligations.ParallelHalfwordResults := by
  intro p op e rd rn rm s sg v n m lo hi loGe hiGe ge
  have hx : halfLanes (parSigned p) op (s.reg rn) (s.reg rm) = (lo, hi) := by
    rw [parSigned_eq]
    exact halfLanes_eq _ op n m
  have hge : p = .s ∨ p = .u →
      geOfHalves (laneGe p (halfAdds op).2 16 hi) (laneGe p (halfAdds op).1 16 lo) = ge := fun hp => by
    rw [geOfHalves_eq, laneGe_eq hp, laneGe_eq hp]
    cases op <;> simp [halfAdds, ge, loGe, hiGe]
  have hcpsr : (if parWritesGe p then
      { s.cpsr with ge := geOfHalves (laneGe p (halfAdds op).2 16 hi) (laneGe p (halfAdds op).1 16 lo) }
      else s.cpsr) = if p = .s ∨ p = .u then { s.cpsr with ge := ge } else s.cpsr := by
    rw [parWritesGe_eq]
    by_cases hp : p = .s ∨ p = .u
    · simp [hp, hge hp]
    · simp [hp]
  refine gives_plainOp (par16 p op e rd rn rm) s s.cfg.haveV6 _ _ [rd] [rn, rm] _ _ _
    (by rw [exec_par16, encodingOf_par16]; rfl) (sizeOf2_par16 ..) (by rw [encodingOf_par16])
    (by rw [encodingOf_par16]; rfl) ?_ (by split <;> rfl)
  rw [← hcpsr, ← laneResult_eq p (by decide), ← laneResult_eq p (by decide)]
  simp only [hx]
  exact becomes_setReg_ge s rd _ (parWritesGe p) _

/-- GE of four bytes. -/
theorem geOfBytes_eq (g0 g1 g2 g3 : Bool) :
    BitVec.ofBool g3 ++ BitVec.ofBool g2 ++ BitVec.ofBool g1 ++ BitVec.ofBool g0 =
      BitVec.ofNat 4 (g0.toNat + 2 * g1.toNat + 4 * g2.toNat + 8 * g3.toNat) := by
  cases g0 <;> cases g1 <;> cases g2 <;> cases g3 <;> rfl

theorem byteLane_eq (sg sub : Bool) (n m : Word) (i : Nat) :
    let v (w : Word) : Int := laneInt sg ((w >>> (8 * i)).setWidth 8 : BitVec 8)
    byteLane sg sub n m i = if sub then v n - v m else v n + v m := by
  simp [byteLane, laneVal, laneInt, extractLsb'_eq_setWidth]

/-- Settles O23: as O22, for the four bytes. -/
theorem parallelByteResults : Obligations.ParallelByteResults := by
  intro p sub e rd rn rm s sg v x g
  have hx : byteLane (parSigned p) sub (s.reg rn) (s.reg rm) = x := by
    rw [parSigned_eq]
    exact funext fun i => byteLane_eq _ _ _ _ i
  have hge : p = .s ∨ p = .u → ∀ i, laneGe p (!sub) 8 (x i) = g i := fun hp i => by
    rw [laneGe_eq hp]
    cases sub <;> simp [g]
  have hcpsr : (if parWritesGe p then
      { s.cpsr with
        ge := BitVec.ofBool (laneGe p (!sub) 8 (x 3)) ++ BitVec.ofBool (laneGe p (!sub) 8 (x 2)) ++
          BitVec.ofBool (laneGe p (!sub) 8 (x 1)) ++ BitVec.ofBool (laneGe p (!sub) 8 (x 0)) }
      else s.cpsr) = if p = .s ∨ p = .u then
        { s.cpsr with
          ge := BitVec.ofNat 4 ((g 0).toNat + 2 * (g 1).toNat + 4 * (g 2).toNat + 8 * (g 3).toNat) }
       else s.cpsr := by
    rw [parWritesGe_eq]
    by_cases hp : p = .s ∨ p = .u
    · simp [hp, hge hp, geOfBytes_eq]
    · simp [hp]
  refine gives_plainOp (par8 p sub e rd rn rm) s s.cfg.haveV6 _ _ [rd] [rn, rm] _ _ _
    (by rw [exec_par8, encodingOf_par8]; rfl) (sizeOf2_par8 ..) (by rw [encodingOf_par8])
    (by rw [encodingOf_par8]; rfl) ?_ (by split <;> rfl)
  rw [← hcpsr]
  simp only [← laneResult_eq p (show 1 ≤ 8 by decide), hx]
  exact becomes_setReg_ge s rd _ (parWritesGe p) _

/-! ### Sums of absolute differences, and saturation -/

theorem toNat_extract_byte (v : Word) (i : Nat) : (v.extractLsb' (8 * i) 8).toNat = byteNat v i := by
  rw [BitVec.extractLsb'_toNat, byteNat, Nat.shiftRight_eq_div_pow, Nat.pow_mul]

theorem extract_half_toInt (v : Word) : (v.extractLsb' 0 16).toInt = halfInt v false ∧
    (v.extractLsb' 16 16).toInt = halfInt v true := by
  simp [halfInt, extractLsb'_eq_setWidth]

/-- A left shift by a constant. -/
theorem shiftConst_lsl (v : Word) (imm5 : BitVec 5) (cin : Bool) :
    (shiftConst v .lsl imm5 cin).1 = v <<< imm5.toNat := by
  have h : (shiftConst v .lsl imm5 cin) = shiftC v .lsl imm5.toNat cin := rfl
  rw [h]
  have := imm5.isLt
  rcases Nat.eq_zero_or_pos imm5.toNat with h0 | hp
  · rw [h0, shiftC_zero]
    simp
  · rw [shiftC_lsl_of_le v cin hp (by omega)]

/-- An arithmetic right shift by a constant, 0 meaning 32. -/
theorem shiftConst_asr (v : Word) (imm5 : BitVec 5) (cin : Bool) :
    (shiftConst v .asr imm5 cin).1 = v.sshiftRight (if imm5.toNat = 0 then 32 else imm5.toNat) := by
  have h : shiftConst v .asr imm5 cin = shiftC v .asr (if imm5 = 0#5 then 32 else imm5.toNat) cin := rfl
  have hlt := imm5.isLt
  have hz : imm5 = 0#5 ↔ imm5.toNat = 0 := by rw [BitVec.toNat_eq]; rfl
  rw [h]
  simp only [hz]
  split
  · apply BitVec.eq_of_getLsbD_eq
    intro k hk
    rw [shiftC_asr_bit v cin (by decide) hk, BitVec.getLsbD_sshiftRight]
    simp [hk, BitVec.msb_eq_getLsbD_last]
  · rw [shiftC_asr_of_lt v cin (by omega) (by omega)]

theorem satOperand_eq (s : State) (sh : Bool) (imm5 : BitVec 5) (rm : Reg) :
    (satOperand s sh imm5 rm).toInt =
      if sh then ((s.reg rm).sshiftRight (if imm5.toNat = 0 then 32 else imm5.toNat)).toInt
      else (s.reg rm <<< imm5.toNat).toInt := by
  cases sh
  · exact congrArg BitVec.toInt (shiftConst_lsl _ _ _)
  · exact congrArg BitVec.toInt (shiftConst_asr _ _ _)

/-- Settles O24: the sums byte by byte, the saturations as bounds. -/
theorem differenceAndSaturateResults : Obligations.DifferenceAndSaturateResults := by
  intro e rd rm rs rn q5 i5 q4 sh s d sum x h two feature cs cu cs16 cu16
  obtain ⟨hl, hh⟩ := extract_half_toInt (s.reg rm)
  have hsum : sumAbsDiff (s.reg rm) (s.reg rs) = sum := by
    simp only [sumAbsDiff, toNat_extract_byte]
    rfl
  have hx : (satOperand s sh i5 rm).toInt = x := satOperand_eq s sh i5 rm
  refine ⟨gives_setReg ?_, gives_setReg ?_, gives_setRegQ ?_ ?_, gives_setRegQ ?_ ?_, gives_setRegQ ?_ ?_,
    gives_setRegQ ?_ ?_⟩
  · simp only [hsum]
  · simp only [hsum, BitVec.ofNat_add, BitVec.ofNat_toNat, BitVec.setWidth_eq]
  · simp only [hx, signedSatQ_eq (Nat.le_add_left 1 _)]
    rfl
  · simp only [hx, signedSatQ_eq (Nat.le_add_left 1 _)]
    rfl
  · simp only [hx, unsignedSatQ_eq]
    rfl
  · simp only [hx, unsignedSatQ_eq]
    rfl
  · simp only [hl, hh, signedSatQ_eq (Nat.le_add_left 1 _)]
    rfl
  · simp only [hl, hh, signedSatQ_eq (Nat.le_add_left 1 _)]
    rfl
  · simp only [hl, hh, unsignedSatQ_eq]
    rfl
  · simp only [hl, hh, unsignedSatQ_eq]
    rfl

end Sys2Proof.Machine
end

section
/-! SUPPORT and PROOFS. Multiplications, the accumulator and divisions (spec 42_multiply_divide): exact integers, cut to
words, are the bit vector operations of the statements. -/

namespace Sys2Proof.Machine

open Sys2Proof

/-! ### Products as bit vectors -/

theorem ofNat_toNat_mul (a b : Word) : BitVec.ofNat 32 (a.toNat * b.toNat) = a * b := by
  simp [BitVec.ofNat_mul]

theorem ofNat_mul_64 (a b : Word) : BitVec.ofNat 64 (a.toNat * b.toNat) = a.setWidth 64 * b.setWidth 64 := by
  simp [BitVec.ofNat_mul]

theorem ofInt_mul_signExtend (n : Nat) (a b : Word) :
    BitVec.ofInt n (a.toInt * b.toInt) = a.signExtend n * b.signExtend n := by
  rw [BitVec.ofInt_mul]
  rfl

theorem ofInt_sub' {n : Nat} (x y : Int) : BitVec.ofInt n (x - y) = BitVec.ofInt n x - BitVec.ofInt n y := by
  rw [Int.sub_eq_add_neg, BitVec.ofInt_add, BitVec.ofInt_neg, BitVec.sub_eq_add_neg]

theorem setNZ64_eq (p : Cpsr) (r : BitVec 64) :
    ({ p with n := r.msb, z := r == 0#64 } : Cpsr) =
      { p with n := decide (r.toInt < 0), z := decide (r.toNat = 0) } := by
  have hz : (r == 0#64) = decide (r.toNat = 0) := by
    rw [beq_eq_decide]
    exact decide_eq_decide.2 BitVec.toNat_eq
  rw [BitVec.msb_eq_toInt, hz]

/-! ### Checks of the multiplies -/

theorem forall_append_pass {l k : List (Bool × Refusal)} :
    (∀ x ∈ l ++ k, x.1 = false) ↔ (∀ x ∈ l, x.1 = false) ∧ ∀ x ∈ k, x.1 = false := by
  simp only [List.mem_append, or_imp, forall_and]

/-- Checks in addition to those of `plainChecks`, all for registers that must differ. -/
theorem plainChecks_append_refusals (e : Enc) (d r : List Reg) {k : List (Bool × Refusal)}
    (hk : ∀ x ∈ k, x.2 = .sameRegister) :
    ∀ x ∈ (plainChecks e d r ++ k).map Prod.snd,
      x ∈ [Refusal.pcAsDestination, .pcOperand, .spOperand, .sameRegister] := by
  intro x hx
  rw [List.map_append, List.mem_append] at hx
  rcases hx with hx | hx
  · exact plainChecks_refusals e d r x hx
  · obtain ⟨y, hy, rfl⟩ := List.mem_map.1 hx
    simp [hk y hy]

/-- A sequential instruction with the checks of `plainChecks` and others for registers that must differ. -/
theorem gives_distinct {i : Instr} {s u : State} {f0 feature allowed extra : Bool} {d r : List Reg}
    {k : List (Bool × Refusal)} {w : List (Reg × Word)} {p : Cpsr}
    (hu : Becomes s u w p s.pc s.ac s.draws s.byteAt) (hit : p.it = s.cpsr.it)
    (hk : ∀ x ∈ k, x.2 = .sameRegister) (hke : (∀ x ∈ k, x.1 = false) ↔ extra = true)
    (hx : exec i s = perform (form4 s.cfg (encodingOf i) f0) s
      (checked (plainChecks (encodingOf i) d r ++ k) (.ok u)) := by unfold exec; exact rfl)
    (hs : sizeOf2 i = 4#32 := by rfl)
    (hf : (f0 && (!(encodingOf i).isThumb || s.cfg.haveT2)) = feature := by rfl)
    (ha : (plainOk (encodingOf i) (d ++ r) && extra) = allowed := by rfl) : Gives i s feature allowed w p := by
  refine gives_of_form4 i s u f0 feature allowed w p _ hx hs hf ?_ (plainChecks_append_refusals _ _ _ hk) hu hit
  rw [forall_append_pass, plainChecks_pass, hke, ← ha, Bool.and_eq_true]

theorem oldDistinct_pass (c : Config) (a b : Reg) :
    (∀ x ∈ [oldDistinct c a b], x.1 = false) ↔ (c.haveV6 || a != b) = true := by
  cases h : c.haveV6 <;> simp [oldDistinct, h]

/-! ### MUL, MLA, MLS -/

/-- The result and, with S, N and Z: on architecture v5 and later. -/
theorem becomes_mul (s : State) (rd : Reg) (r : Word) (sf : Bool) (h5 : sf = true → s.cfg.haveV5 = true) :
    Becomes s (if sf then mulFlags32 (s.setReg rd r) r else s.setReg rd r) [(rd, r)]
      (if sf then withNZ s.cpsr r else s.cpsr) s.pc s.ac s.draws s.byteAt := by
  cases sf with
  | false => exact becomes_setReg_withFlags s rd r false s.cpsr
  | true =>
    have hu : (s.setReg rd r).cfg.mulFlagsUnpredictable = false := by
      simp [Config.mulFlagsUnpredictable, h5 rfl]
    have he : mulFlags32 (s.setReg rd r) r = { s.setReg rd r with cpsr := withNZ s.cpsr r } := by
      rw [mulFlags32, hu, setNZ_eq, State.setReg_cpsr]
      rfl
    rw [if_pos rfl, he]
    exact becomes_setReg s rd r _

/-- MUL and MLA, the result as the statements write it. -/
theorem gives_mul {i : Instr} {s : State} {sf : Bool} {rd rm : Reg} {r : List Reg} {v v' : Word} {allowed : Bool}
    (h5 : sf = true → s.cfg.haveV5 = true) (hv : v = v')
    (hx : exec i s = perform (form4 s.cfg (encodingOf i) true) s
      (checked (plainChecks (encodingOf i) [rd] r ++ [oldDistinct s.cfg rd rm])
        (.ok (if sf then mulFlags32 (s.setReg rd v) v else s.setReg rd v))))
    (ha : (plainOk (encodingOf i) ([rd] ++ r) && (s.cfg.haveV6 || rd != rm)) = allowed := by rfl)
    (hs : sizeOf2 i = 4#32 := by rfl) :
    Gives i s (!(encodingOf i).isThumb || s.cfg.haveT2) allowed [(rd, v')] (if sf then withNZ s.cpsr v' else s.cpsr) := by
  subst hv
  exact gives_distinct (becomes_mul s rd v sf h5) (by cases sf <;> rfl) (by simp [oldDistinct])
    (oldDistinct_pass _ _ _) hx hs rfl ha

theorem mla_eq (n m r : Word) : BitVec.ofNat 32 (n.toNat + m.toNat * r.toNat) = n + m * r := by
  simp [BitVec.ofNat_add, BitVec.ofNat_mul]

theorem mls_eq (n m r : Word) :
    BitVec.ofInt 32 ((n.toNat : Int) - (m.toNat : Int) * (r.toNat : Int)) = n - m * r := by
  simp [ofInt_sub', BitVec.ofInt_mul]

/-- Settles O25: the products as bit vectors, the flags given architecture v5. -/
theorem multiplyResults : Obligations.MultiplyResults := by
  intro e sf rd rm rs rn s h5
  refine ⟨gives_mul h5 (ofNat_toNat_mul _ _) rfl, gives_mul h5 (mla_eq _ _ _) rfl,
    gives_setReg ?_ (hf := and_thumb_or _ _)⟩
  exact mls_eq _ _ _

/-! ### Long multiplies -/

theorem setPair_eq (s : State) (lo hi : Reg) (r : BitVec 64) (p : Cpsr) :
    Becomes s { s.setPair lo hi r with cpsr := p } (pairWrites lo hi r) p s.pc s.ac s.draws s.byteAt := by
  have h := becomes_setReg_two s lo hi (r.extractLsb' 0 32) (r.extractLsb' 32 32) p
  rw [extractLsb'_eq_setWidth, extractLsb'_eq_setWidth] at h
  simpa [State.setPair, pairWrites, extractLsb'_eq_setWidth] using h

theorem becomes_setPair (s : State) (lo hi : Reg) (r : BitVec 64) :
    Becomes s (s.setPair lo hi r) (pairWrites lo hi r) s.cpsr s.pc s.ac s.draws s.byteAt := by
  have h := setPair_eq s lo hi r s.cpsr
  have he : { s.setPair lo hi r with cpsr := s.cpsr } = s.setPair lo hi r := by rw [← State.setPair_cpsr s lo hi r]
  rwa [he] at h

/-- The pair and, with S, N and Z of 64 bits: on architecture v5 and later. -/
theorem becomes_longMul (s : State) (lo hi : Reg) (r : BitVec 64) (sf : Bool)
    (h5 : sf = true → s.cfg.haveV5 = true) :
    Becomes s (if sf then mulFlags64 (s.setPair lo hi r) r else s.setPair lo hi r) (pairWrites lo hi r)
      (if sf then { s.cpsr with n := decide (r.toInt < 0), z := decide (r.toNat = 0) } else s.cpsr) s.pc s.ac s.draws
      s.byteAt := by
  cases sf with
  | false => exact becomes_setPair s lo hi r
  | true =>
    have hu : (s.setPair lo hi r).cfg.mulFlagsUnpredictable = false := by
      simp [Config.mulFlagsUnpredictable, h5 rfl]
    have he : mulFlags64 (s.setPair lo hi r) r = { s.setPair lo hi r with
        cpsr := { s.cpsr with n := decide (r.toInt < 0), z := decide (r.toNat = 0) } } := by
      rw [mulFlags64, hu, State.setPair_cpsr, setNZ64_eq]
      rfl
    rw [if_pos rfl, he]
    exact setPair_eq s lo hi r _

/-- UMULL, UMLAL, SMULL and SMLAL, the result as the statements write it. -/
theorem gives_longMul {i : Instr} {s : State} {sf : Bool} {lo hi rm rs : Reg} {v v' : BitVec 64}
    (h5 : sf = true → s.cfg.haveV5 = true) (hv : v = v')
    (hx : exec i s = longMul (encodingOf i) sf lo hi rm rs s v) (hs : sizeOf2 i = 4#32 := by rfl) :
    Gives i s (!(encodingOf i).isThumb || s.cfg.haveT2)
      (plainOk (encodingOf i) [lo, hi, rm, rs] && lo != hi && (s.cfg.haveV6 || (lo != rm && hi != rm)))
      (pairWrites lo hi v')
      (if sf then { s.cpsr with n := decide (v'.toInt < 0), z := decide (v'.toNat = 0) } else s.cpsr) := by
  subst hv
  refine gives_distinct (extra := lo != hi && (s.cfg.haveV6 || (lo != rm && hi != rm)))
    (becomes_longMul s lo hi v sf h5) (by cases sf <;> rfl) (by simp [oldDistinct, distinct]) ?_ hx hs rfl
    (Bool.and_assoc _ _ _).symm
  cases h : s.cfg.haveV6 <;> simp [oldDistinct, distinct, h]

/-- The long multiplies without flags. -/
theorem gives_longPlain {i : Instr} {s : State} {f0 feature : Bool} {lo hi rm rs : Reg} {v v' : BitVec 64}
    (hv : v = v')
    (hx : exec i s = longPlain f0 (encodingOf i) lo hi rm rs s v) (hs : sizeOf2 i = 4#32 := by rfl)
    (hf : (f0 && (!(encodingOf i).isThumb || s.cfg.haveT2)) = feature := by rfl) :
    Gives i s feature (plainOk (encodingOf i) [lo, hi, rm, rs] && lo != hi) (pairWrites lo hi v') s.cpsr := by
  subst hv
  exact gives_distinct (extra := lo != hi) (becomes_setPair s lo hi v) rfl (by simp [distinct]) (by simp [distinct])
    hx hs hf rfl

theorem umlal_eq (acc : BitVec 64) (m r : Word) :
    BitVec.ofNat 64 (acc.toNat + m.toNat * r.toNat) = acc + m.setWidth 64 * r.setWidth 64 := by
  rw [BitVec.ofNat_add, ofNat_mul_64, BitVec.ofNat_toNat, BitVec.setWidth_eq]

theorem smlal_eq (acc : BitVec 64) (m r : Word) :
    BitVec.ofInt 64 (acc.toInt + m.toInt * r.toInt) = acc + m.signExtend 64 * r.signExtend 64 := by
  rw [BitVec.ofInt_add, ofInt_mul_signExtend, BitVec.ofInt_toInt]

theorem umaal_eq (h l m r : Word) :
    BitVec.ofNat 64 (h.toNat + l.toNat + m.toNat * r.toNat) =
      h.setWidth 64 + l.setWidth 64 + m.setWidth 64 * r.setWidth 64 := by
  rw [BitVec.ofNat_add, BitVec.ofNat_add, ofNat_mul_64, BitVec.ofNat_toNat, BitVec.ofNat_toNat]

/-- Settles O27: the 64-bit products as bit vectors, written to the pair. -/
theorem longMultiplyResults : Obligations.LongMultiplyResults := by
  intro e sf lo hi rm rs s h5
  exact ⟨gives_longMul h5 (ofNat_mul_64 _ _) rfl, gives_longMul h5 (umlal_eq _ _ _) rfl,
    gives_longMul h5 (ofInt_mul_signExtend _ _ _) rfl, gives_longMul h5 (smlal_eq _ _ _) rfl,
    gives_longPlain (umaal_eq _ _ _ _) rfl⟩

end Sys2Proof.Machine
end

section
namespace Sys2Proof.Machine

open Sys2Proof

/-! ### ARM instructions that execute -/

/-- The next state of a four-byte ARM instruction in line that executes with operands that pass the checks. -/
theorem exec_arm_next {i : Instr} {s u : State} {c : Cond} {f : Bool} {l : List (Bool × Refusal)}
    {w : List (Reg × Word)} {p : Cpsr} {ac : BitVec 40} {draws : Nat} {bytes : Word → Byte}
    (hf : f = true) (hr : runs (.a32 c) true s = true) (hl : ∀ x ∈ l, x.1 = false)
    (hu : Becomes s u w p s.pc ac draws bytes) (hit : p.it = s.cpsr.it)
    (hx : exec i s = perform (form4 s.cfg (.a32 c) f) s (checked l (.ok u)) := by unfold exec; exact rfl) :
    ∃ t, exec i s = .next t ∧ Becomes s t w p (s.pc + 4#32) ac draws bytes := by
  refine ⟨finish (form4 s.cfg (.a32 c) f) u, by rw [hx, perform_form4_runs _ _ _ _ _ rfl hf hr, checked_ok _ _ hl], ?_⟩
  have h := becomes_finish_form4 s u s.cfg (.a32 c) f w p ac draws bytes hu hit
  have he : { p with it := itNext (.a32 c) s } = p := by
    rw [itNext, ← hit]
  rwa [he] at h

/-! ### Flags of the multiplies on architecture v4 -/

theorem becomes_mul_v4 (s : State) (rd : Reg) (r : Word) (h5 : s.cfg.haveV5 = false) :
    Becomes s (mulFlags32 (s.setReg rd r) r) [(rd, r)] { withNZ s.cpsr r with c := Config.freeBit s.draws } s.pc s.ac
      (s.draws + 1) s.byteAt := by
  obtain ⟨hregs, -, hpc, hac, -, hrest⟩ := becomes_setReg s rd r s.cpsr
  have hu : (s.setReg rd r).cfg.mulFlagsUnpredictable = true := by simp [Config.mulFlagsUnpredictable, h5]
  have he : mulFlags32 (s.setReg rd r) r = { s.setReg rd r with
      cpsr := { withNZ s.cpsr r with c := Config.freeBit s.draws }, draws := s.draws + 1 } := by
    rw [mulFlags32, hu, ← setNZC_eq, State.setReg_cpsr, State.setReg_draws]
    rfl
  rw [he]
  exact ⟨hregs, rfl, hpc, hac, rfl, hrest⟩

theorem becomes_longMul_v4 (s : State) (lo hi : Reg) (r : BitVec 64) (h5 : s.cfg.haveV5 = false) :
    Becomes s (mulFlags64 (s.setPair lo hi r) r) (pairWrites lo hi r)
      { s.cpsr with
        n := decide (r.toInt < 0), z := decide (r.toNat = 0), c := Config.freeBit s.draws,
        v := Config.freeBit (s.draws + 1) } s.pc s.ac (s.draws + 2) s.byteAt := by
  obtain ⟨hregs, -, hpc, hac, -, hrest⟩ := setPair_eq s lo hi r s.cpsr
  have hu : (s.setPair lo hi r).cfg.mulFlagsUnpredictable = true := by simp [Config.mulFlagsUnpredictable, h5]
  have he : mulFlags64 (s.setPair lo hi r) r = { s.setPair lo hi r with
      cpsr := { s.cpsr with
        n := decide (r.toInt < 0), z := decide (r.toNat = 0), c := Config.freeBit s.draws,
        v := Config.freeBit (s.draws + 1) }
      draws := s.draws + 2 } := by
    have hnz := setNZ64_eq s.cpsr r
    simp only [Cpsr.mk.injEq] at hnz
    rw [mulFlags64, hu, State.setPair_cpsr, State.setPair_draws, if_pos rfl]
    simp only [hnz]
  rw [he]
  exact ⟨hregs, rfl, hpc, hac, rfl, hrest⟩

/-- Settles O26: the checks of MULS and the like pass, and the free bits are the next ones. -/
theorem multiplyFlagsBeforeV5 : Obligations.MultiplyFlagsBeforeV5 := by
  intro c rd rm rs rn lo hi s h5 h6 hr bit bit2 p u i acc one two
  have hold : ∀ {a b : Reg}, a ≠ b → ∀ x ∈ [oldDistinct s.cfg a b], x.1 = false :=
    fun hab => (oldDistinct_pass _ _ _).2 (by simp [hab])
  refine ⟨fun hok hne => ⟨?_, fun hn => ?_⟩, fun hok hlh hlm hhm => ?_⟩
  · refine exec_arm_next (l := plainChecks (.a32 c) [rd] [rm, rs] ++ [oldDistinct s.cfg rd rm]) rfl hr ?_
      (becomes_mul_v4 s rd p h5) rfl (by rw [show p = _ from (ofNat_toNat_mul _ _).symm]; rfl)
    exact forall_append_pass.2 ⟨(plainChecks_pass _ _ _).2 hok, hold hne⟩
  · have hok' : plainOk (.a32 c) [rd, rm, rs, rn] = true := by
      simp only [plainOk, List.all_cons, List.all_nil, Bool.and_eq_true] at hok ⊢
      simp [hok, hn, Enc.isThumb]
    refine exec_arm_next (l := plainChecks (.a32 c) [rd] [rm, rs, rn] ++ [oldDistinct s.cfg rd rm]) rfl hr ?_
      (becomes_mul_v4 s rd (s.reg rn + p) h5) rfl (by rw [show s.reg rn + p = _ from (mla_eq _ _ _).symm]; rfl)
    exact forall_append_pass.2 ⟨(plainChecks_pass _ _ _).2 hok', hold hne⟩
  · have hpass : ∀ x ∈ plainChecks (.a32 c) [lo, hi] [rm, rs] ++
        [distinct lo hi, oldDistinct s.cfg lo rm, oldDistinct s.cfg hi rm], x.1 = false :=
      forall_append_pass.2 ⟨(plainChecks_pass _ _ _).2 hok, by simp [distinct, oldDistinct, hlh, hlm, hhm]⟩
    have hone : ∀ {x : Instr} {v r : BitVec 64}, v = r → exec x s = longMul (.a32 c) true lo hi rm rs s v →
        two x r := by
      intro x v r hv hx
      subst hv
      exact exec_arm_next rfl hr hpass (becomes_longMul_v4 s lo hi v h5) rfl hx
    exact ⟨hone (ofNat_mul_64 _ _) rfl, hone (umlal_eq _ _ _) rfl, hone (ofInt_mul_signExtend _ _ _) rfl,
      hone (smlal_eq _ _ _) rfl⟩

/-! ### Halfword, dual and top-word multiplies -/

theorem half_eq (v : Word) (top : Bool) : half v top = halfInt v top := by
  cases top <;> simp [half, halfInt, extractLsb'_eq_setWidth]

theorem overflows_eq (x : Int) : overflows x = outside x := by
  rw [overflows, outside, BitVec.toInt_ofInt, Bool.eq_iff_iff, bne_iff_ne, decide_eq_true_iff, Int.bmod_def]
  omega

theorem smlalxy_eq (acc : BitVec 64) (p : Int) : BitVec.ofInt 64 (acc.toInt + p) = acc + BitVec.ofInt 64 p := by
  rw [BitVec.ofInt_add, BitVec.ofInt_toInt]

/-- Settles O28: the halfwords as integers, Q where the sum leaves 32 bits. -/
theorem halfwordMultiplyResults : Obligations.HalfwordMultiplyResults := by
  intro e x y rd rm rs rn lo hi s
  have hw : ∀ z : Int, z / 65536 = z.fdiv 65536 := fun z => (Int.fdiv_eq_ediv_of_nonneg z (by decide)).symm
  refine ⟨gives_setReg ?_, gives_setReg ?_, gives_setRegQ ?_ ?_, gives_setRegQ ?_ ?_, gives_longPlain ?_ rfl⟩
  · simp only [half_eq]
  · simp only [half_eq, hw]
  · simp only [half_eq]
  · simp only [half_eq, overflows_eq]
  · simp only [half_eq, hw]
  · simp only [half_eq, overflows_eq, hw]
  · rw [half_eq, half_eq]
    exact smlalxy_eq _ _

/-- Rotated by 16, the halves are exchanged. -/
theorem half_rsX (v : Word) (x top : Bool) : half (rsX v x) top = halfInt v (if x then !top else top) := by
  rw [half_eq]
  cases x with
  | false => rfl
  | true =>
    have hlo : (rorWord v 16).setWidth 16 = (v >>> 16).setWidth 16 := by
      apply BitVec.eq_of_getLsbD_eq
      intro k hk
      rw [BitVec.getLsbD_setWidth, rorWord_bit v 16 (by omega), Nat.mod_eq_of_lt (by omega)]
      simp [hk, Nat.add_comm]
    have hhi : (rorWord v 16 >>> 16).setWidth 16 = v.setWidth 16 := by
      apply BitVec.eq_of_getLsbD_eq
      intro k hk
      rw [BitVec.getLsbD_setWidth, BitVec.getLsbD_ushiftRight, rorWord_bit v 16 (by omega),
        show (16 + k + 16) % 32 = k by omega]
      simp [hk]
    cases top <;> simp [rsX, halfInt, hlo, hhi]

theorem products_eq (m r : Word) (x : Bool) :
    products m r x = (halfInt m false * halfInt r x, halfInt m true * halfInt r (!x)) := by
  rw [products, half_rsX, half_rsX, half_eq, half_eq]
  cases x <;> rfl

/-- A signed halfword. -/
theorem halfInt_bounds (v : Word) (top : Bool) : -32768 ≤ halfInt v top ∧ halfInt v top ≤ 32767 := by
  unfold halfInt
  generalize ((if top then v >>> 16 else v).setWidth 16 : BitVec 16) = h
  have h1 := BitVec.le_toInt h
  have h2 := BitVec.toInt_lt (x := h)
  simp only [Nat.add_one_sub_one] at h1 h2
  omega

/-- The product of two signed halfwords has at most 31 bits. -/
theorem halfInt_mul_bounds (v w : Word) (a b : Bool) :
    -1073709056 ≤ halfInt v a * halfInt w b ∧ halfInt v a * halfInt w b ≤ 1073741824 := by
  obtain ⟨h1, h2⟩ := halfInt_bounds v a
  obtain ⟨h3, h4⟩ := halfInt_bounds w b
  constructor <;> nlinarith

/-- Settles O29: both products as integers; the difference of two products fits 32 bits. -/
theorem dualMultiplyResults : Obligations.DualMultiplyResults := by
  intro e x rd rm rs rn lo hi s feature a b n acc ok3 ok4 okL
  have hp : products (s.reg rm) (s.reg rs) x = (a, b) := products_eq _ _ _
  refine ⟨gives_setRegQ ?_ ?_, gives_setRegQ ?_ ?_, gives_longPlain ?_ rfl, gives_setReg ?_, ?_, gives_setRegQ ?_ ?_,
    gives_longPlain ?_ rfl⟩
  · simp only [hp]
  · simp only [hp, overflows_eq]
  · simp only [hp]
    rfl
  · simp only [hp, overflows_eq]
    rfl
  · simp only [hp]
    rw [Int.add_assoc]
    exact smlalxy_eq _ _
  · simp only [hp]
  · have ha := halfInt_mul_bounds (s.reg rm) (s.reg rs) false x
    have hb := halfInt_mul_bounds (s.reg rm) (s.reg rs) true (!x)
    exact decide_eq_false (by omega)
  · simp only [hp]
    rfl
  · simp only [hp, overflows_eq]
    rfl
  · simp only [hp]
    rw [Int.add_sub_assoc]
    exact smlalxy_eq _ _

/-- The top word of a 64-bit value, rounded with R. -/
theorem topWord_eq (i : Int) (r : Bool) :
    topWord i r =
      ((if r then BitVec.ofInt 64 i + 0x80000000#64 else BitVec.ofInt 64 i) >>> 32).setWidth 32 := by
  rw [topWord, extractLsb'_eq_setWidth]
  cases r
  · rfl
  · rw [if_pos rfl, if_pos rfl, BitVec.ofInt_add]
    rfl

/-- A register at the top of 64 bits. -/
theorem ofInt_top (n : Word) : BitVec.ofInt 64 (n.toInt * 4294967296) = n ++ 0#32 := by
  apply BitVec.eq_of_toNat_eq
  have hn := n.isLt
  rw [BitVec.toNat_ofInt, BitVec.toNat_append, Nat.shiftLeft_eq, BitVec.toInt_eq_toNat_cond]
  simp only [BitVec.toNat_ofNat, Nat.zero_mod, Nat.or_zero]
  split <;> omega

/-- Settles O30: the top word of a 64-bit sum is the sum shifted right. -/
theorem topWordMultiplyResults : Obligations.TopWordMultiplyResults := by
  intro e r rd rm rs rn s feature p n top
  refine ⟨gives_setReg ?_, gives_setReg ?_, gives_setReg ?_⟩
  · simp only [topWord_eq, ofInt_mul_signExtend]
    rfl
  · simp only [topWord_eq, BitVec.ofInt_add, ofInt_top, ofInt_mul_signExtend]
    rfl
  · simp only [topWord_eq, ofInt_sub', ofInt_top, ofInt_mul_signExtend]
    rfl

end Sys2Proof.Machine
end

section
/-! SUPPORT and PROOFS. The accumulator and divisions (spec 42_multiply_divide sections 7 and 8). -/

namespace Sys2Proof.Machine

open Sys2Proof

/-! ### ARM instructions that are refused -/

/-- An ARM instruction in line that executes with an operand that fails a check. -/
theorem exec_arm_refused {i : Instr} {s : State} {c : Cond} {f : Bool} {l : List (Bool × Refusal)}
    {k : Except Stop State} (hf : f = true) (hr : runs (.a32 c) true s = true) (hl : ∃ x ∈ l, x.1 = true)
    (hx : exec i s = perform (form4 s.cfg (.a32 c) f) s (checked l k) := by unfold exec; exact rfl) :
    ∃ r, exec i s = .refused r ∧ r ∈ l.map Prod.snd := by
  obtain ⟨r, hm, he⟩ := checked_bad l k hl
  exact ⟨r, by rw [hx, perform_form4_runs _ _ _ _ _ rfl hf hr, he], hm⟩

/-! ### The accumulator -/

theorem becomes_ac (s : State) (v : BitVec 40) :
    Becomes s { s with ac := v } [] s.cpsr s.pc v s.draws s.byteAt :=
  ⟨fun _ => rfl, rfl, rfl, rfl, rfl, fun _ => rfl, rfl, rfl, rfl, rfl, rfl, rfl, rfl⟩

theorem mac_eq (ac : BitVec 40) (x y : Int) :
    BitVec.ofInt 40 (ac.toInt + x * y) = ac + BitVec.ofInt 40 x * BitVec.ofInt 40 y := by
  rw [BitVec.ofInt_add, BitVec.ofInt_mul, BitVec.ofInt_toInt]

/-- The top byte of the accumulator, sign extended (log 23). -/
theorem ac_top_eq (ac : BitVec 40) :
    (ac.extractLsb' 32 8).signExtend 32 = (ac.sshiftRight 32).setWidth 32 := by
  apply BitVec.eq_of_getLsbD_eq
  intro k hk
  rw [BitVec.getLsbD_signExtend, BitVec.getLsbD_setWidth, BitVec.getLsbD_sshiftRight, BitVec.getLsbD_extractLsb']
  by_cases h8 : k < 8
  · have h40 : 32 + k < 40 := by omega
    have hk40 : k < 40 := by omega
    simp [h8, hk, h40, hk40]
  · have h40 : ¬32 + k < 40 := by omega
    have hk40 : k < 40 := by omega
    simp [h8, hk, h40, hk40, BitVec.msb_eq_getLsbD_last]

/-- Settles O31: the sums of integers modulo 2^40, the top byte sign extended (log 23). -/
theorem accumulatorResults : Obligations.AccumulatorResults := by
  intro c x y lo hi rm rs s half ac
  refine ⟨fun hxs i hi' => ?_, fun hxs hr => ⟨fun hm hs => ?_, fun hms i hi' => ?_, fun hl hh hne => ?_,
    fun hbad => ?_⟩⟩
  · have habs : ∀ k, perform (form4 s.cfg (.a32 c) s.cfg.haveXS) s k = .refused .notAvailable := fun k =>
      perform_form4_absent _ _ _ _ _ (by rw [hxs]; rfl)
    simp only [List.mem_cons, List.not_mem_nil, or_false] at hi'
    rcases hi' with rfl | rfl | rfl | rfl | rfl <;> exact habs _
  · have hpass : ∀ x ∈ [srcPc rm, srcPc rs], x.1 = false := by simp [srcPc, hm, hs]
    have hmac : ∀ {i : Instr} {p : Int} {v : BitVec 40}, BitVec.ofInt 40 (s.ac.toInt + p) = v →
        exec i s = macOp c rm rs s p → ac i v := by
      intro i p v hv hx
      subst hv
      exact exec_arm_next hxs hr hpass (becomes_ac s _) rfl hx
    refine ⟨hmac (mac_eq _ _ _) rfl, hmac ?_ rfl, hmac ?_ rfl⟩
    · rw [half_eq, half_eq, half_eq, half_eq, ← Int.add_assoc, BitVec.ofInt_add, mac_eq, BitVec.ofInt_mul]
    · rw [half_eq, half_eq, mac_eq]
  · have hbad : ∃ x ∈ [srcPc rm, srcPc rs], x.1 = true := by simpa [srcPc] using hms
    have hmac : ∀ {i : Instr} {p : Int}, exec i s = macOp c rm rs s p → exec i s = .refused .pcOperand := by
      intro i p hx
      obtain ⟨r, he, hmem⟩ := exec_arm_refused hxs hr hbad hx
      have : r = .pcOperand := by simpa [srcPc] using hmem
      rw [he, this]
    simp only [List.mem_cons, List.not_mem_nil, or_false] at hi'
    rcases hi' with rfl | rfl | rfl <;> exact hmac rfl
  · refine ⟨?_, ?_⟩
    · have hv : (s.reg hi).setWidth 8 ++ s.reg lo = (s.reg hi).extractLsb' 0 8 ++ s.reg lo := by
        rw [extractLsb'_eq_setWidth, BitVec.ushiftRight_zero]
      exact exec_arm_next (l := [srcPc lo, srcPc hi, distinct lo hi]) hxs hr (by simp [srcPc, distinct, hl, hh, hne])
        (becomes_ac s _) rfl (by rw [hv]; rfl)
    · have hb := becomes_setReg_two s lo hi (s.ac.extractLsb' 0 32) ((s.ac.extractLsb' 32 8).signExtend 32) s.cpsr
      have he : ∀ u : State, u.cpsr = s.cpsr → { u with cpsr := s.cpsr } = u := fun u hu => by rw [← hu]
      rw [he _ (by simp), ac_top_eq, extractLsb'_eq_setWidth, BitVec.ushiftRight_zero] at hb
      obtain ⟨t, ht, hbt⟩ := exec_arm_next (i := .mra c lo hi) (l := [destPc lo, destPc hi, distinct lo hi]) hxs hr
        (by simp [destPc, distinct, hl, hh, hne]) hb rfl
        (by rw [← ac_top_eq, ← BitVec.ushiftRight_zero s.ac, ← extractLsb'_eq_setWidth]; rfl)
      exact ⟨t, ht, hbt⟩
  · constructor
    · obtain ⟨r, he, hmem⟩ := exec_arm_refused (i := .mar c lo hi) (l := [srcPc lo, srcPc hi, distinct lo hi]) hxs hr
        (by simpa [srcPc, distinct] using hbad)
      exact ⟨r, he, by simp_all [srcPc, distinct]; tauto⟩
    · obtain ⟨r, he, hmem⟩ := exec_arm_refused (i := .mra c lo hi) (l := [destPc lo, destPc hi, distinct lo hi]) hxs hr
        (by simpa [destPc, distinct] using hbad)
      exact ⟨r, he, by simp_all [destPc, distinct]; tauto⟩

/-! ### Divisions -/

/-- Truncated division, by the signs and the absolute values. -/
theorem tdiv_eq (n m : Int) :
    n.tdiv m = if (n < 0) ↔ (m < 0) then ((n.natAbs / m.natAbs : Nat) : Int) else -((n.natAbs / m.natAbs : Nat) : Int) := by
  have hdiv : ∀ a b : Nat, ((a : Int).tdiv b) = ((a / b : Nat) : Int) := fun a b => (Int.ofNat_tdiv a b).symm
  rcases lt_or_ge n 0 with hn | hn <;> rcases lt_or_ge m 0 with hm' | hm'
  · rw [if_pos (by simp [hn, hm'])]
    conv_lhs => rw [show n = -(n.natAbs : Int) by omega, show m = -(m.natAbs : Int) by omega]
    rw [Int.neg_tdiv_neg, hdiv]
  · rw [if_neg (by simp [hn, hm'.not_gt])]
    conv_lhs => rw [show n = -(n.natAbs : Int) by omega, show m = (m.natAbs : Int) by omega]
    rw [Int.neg_tdiv, hdiv]
  · rw [if_neg (by simp [hn.not_gt, hm'])]
    conv_lhs => rw [show n = (n.natAbs : Int) by omega, show m = -(m.natAbs : Int) by omega]
    rw [Int.tdiv_neg, hdiv]
  · rw [if_pos (by simp [hn.not_gt, hm'.not_gt])]
    conv_lhs => rw [show n = (n.natAbs : Int) by omega, show m = (m.natAbs : Int) by omega]
    rw [hdiv]

theorem eq_zero_iff_toNat (m : Word) : m = 0#32 ↔ m.toNat = 0 := by
  rw [BitVec.toNat_eq]
  rfl

/-- A division that raises no exception: the quotient, or 0 for a zero divisor. -/
theorem gives_divide {i j : Instr} {s : State} {rd rn rm : Reg} {q q' : Word} {e : Enc}
    (hz : (s.reg rm).toNat ≠ 0 ∨ s.cfg.divByZero = .zero)
    (hx : exec i s = divide j e rd rn rm s q) (hq : (s.reg rm).toNat ≠ 0 → q = q')
    (he : encodingOf i = e := by rfl) (hs : sizeOf2 i = 4#32 := by rfl) :
    Gives i s (s.cfg.haveRM && (!e.isThumb || s.cfg.haveT2)) (plainOk e [rd, rn, rm])
      [(rd, if (s.reg rm).toNat = 0 then 0#32 else q')] s.cpsr := by
  subst he
  refine gives_of_form4 i s (s.setReg rd (if (s.reg rm).toNat = 0 then 0#32 else q')) s.cfg.haveRM _ _ _ _
    (plainChecks (encodingOf i) [rd] [rn, rm]) ?_ hs rfl (plainChecks_pass _ _ _) (plainChecks_refusals _ _ _)
    (becomes_setReg_withFlags s rd _ false s.cpsr) rfl
  rw [hx, divide]
  congr 2
  by_cases h0 : (s.reg rm).toNat = 0
  · rw [if_pos ((eq_zero_iff_toNat _).2 h0), if_pos h0, hz.resolve_left (not_not.2 h0)]
  · rw [if_neg (mt (eq_zero_iff_toNat _).1 h0), if_neg h0, hq h0]

/-- Settles O32: the signed quotient by signs and absolute values; the zero divisor by `DivByZero`. -/
theorem divideResults : Obligations.DivideResults := by
  intro e rd rn rm s feature ok n m q raises
  refine ⟨fun hz => ⟨gives_divide hz (exec_sdiv ..) fun _ => ?_, gives_divide hz (exec_udiv ..) fun _ => rfl⟩,
    fun h0 hfault hrm hr hok => ?_⟩
  · rw [tdiv_eq]
  · have hdiv : ∀ (j : Instr) (v : Word), divide j e rd rn rm s v =
        raiseExc (.undefinedInstruction .divideByZero (encode j)) s := fun j v => by
      rw [divide, perform_form4_runs _ _ _ _ _ rfl hrm hr, checked_ok _ _ ((plainChecks_pass _ _ _).2 hok),
        if_pos ((eq_zero_iff_toNat _).2 h0), hfault]
    exact ⟨(exec_sdiv ..).trans (hdiv _ _), (exec_udiv ..).trans (hdiv _ _)⟩

end Sys2Proof.Machine
end

section
/-! SUPPORT and PROOFS. Bit order, bit fields, packing, selection and extension (spec
44_bitfield_pack_extend_reverse_select, 43_move_shift_compare_logical section 4). -/

namespace Sys2Proof.Machine

open Sys2Proof

/-! ### Words as bytes -/

theorem toNat_append' {n m : Nat} (a : BitVec n) (b : BitVec m) : (a ++ b).toNat = a.toNat * 2 ^ m + b.toNat := by
  rw [BitVec.toNat_append, ← Nat.shiftLeft_add_eq_or_of_lt b.isLt, Nat.shiftLeft_eq]

/-- Four bytes make the word whose bytes they are. -/
theorem append_bytes_eq {r : Word} {b3 b2 b1 b0 : Byte} (h0 : byteNat r 0 = b0.toNat) (h1 : byteNat r 1 = b1.toNat)
    (h2 : byteNat r 2 = b2.toNat) (h3 : byteNat r 3 = b3.toNat) : b3 ++ b2 ++ b1 ++ b0 = r := by
  apply BitVec.eq_of_toNat_eq
  have hr := r.isLt
  simp only [toNat_append', byteNat] at *
  omega

theorem toNat_byteOf (w : Word) (i : Nat) : (byteOf w i).toNat = byteNat w i := toNat_extract_byte w i

/-! ### CLZ, RBIT and the reversals -/

/-- The number of leading zeros is the `k` that bounds the word by `2 ^ (32 - k)` and, for `k` below 32, from below. -/
theorem leadingZeros_eq {x : Word} {k : Nat} (hlt : x.toNat < 2 ^ (32 - k)) (hle : k = 32 ∨ 2 ^ (31 - k) ≤ x.toNat)
    (hk : k ≤ 32) : leadingZeros x = k := by
  unfold leadingZeros
  rcases hle with rfl | hle
  · rw [if_pos (by simpa using hlt)]
  · have hpos := Nat.two_pow_pos (31 - k)
    rcases Nat.lt_or_ge k 32 with h | h
    · have hlog : Nat.log2 x.toNat = 31 - k := by
        rw [Nat.log2_eq_iff (by omega), show 31 - k + 1 = 32 - k by omega]
        exact ⟨hle, hlt⟩
      rw [if_neg (by omega), hlog]
      omega
    · rw [show 32 - k = 0 by omega] at hlt
      omega

theorem reverse_eq {x r : Word} (h : ∀ i < 32, r.getLsbD i = x.getLsbD (31 - i)) : x.reverse = r := by
  apply BitVec.eq_of_getLsbD_eq
  intro i hi
  rw [BitVec.getLsbD_reverse, BitVec.getMsbD_eq_getLsbD, h i hi]
  simp [hi]

/-- Settles O33: CLZ by the bounds of the logarithm, RBIT bit by bit, the reversals byte by byte. -/
theorem bitOrderResults : Obligations.BitOrderResults := by
  intro e rd rm s k r x ok t2 v6
  refine ⟨fun hlt hle hk => gives_setReg ?_, fun h => gives_setReg ?_ (hf := and_thumb_or _ _),
    fun h => gives_setReg ?_, fun h => gives_setReg ?_, fun h => gives_setReg ?_⟩
  · rw [leadingZeros_eq hlt hle hk]
  · exact reverse_eq h
  · refine append_bytes_eq ?_ ?_ ?_ ?_ <;> rw [toNat_byteOf, h _ (by decide)]
  · refine append_bytes_eq ?_ ?_ ?_ ?_ <;> rw [toNat_byteOf, h _ (by decide)]
  · have hb : byteOf x 0 ++ byteOf x 1 = BitVec.ofNat 16 (byteNat x 0 * 256 + byteNat x 1) := by
      apply BitVec.eq_of_toNat_eq
      rw [toNat_append', toNat_byteOf, toNat_byteOf, BitVec.toNat_ofNat]
      have := Nat.mod_lt x.toNat (show 0 < 256 by decide)
      simp only [byteNat]
      omega
    exact BitVec.eq_of_toInt_eq (by rw [hb, BitVec.toInt_signExtend_of_le (by decide), h])

/-! ### Bit fields -/

/-- A last check that passes. -/
theorem checked_append_pass {l : List (Bool × Refusal)} {b : Bool} {r : Refusal} {k : Except Stop State}
    (hb : b = false) : checked (l ++ [(b, r)]) k = checked l k := by
  induction l with
  | nil => simp [checked, hb]
  | cons x l ih => simp [checked, ih]

/-- A last check that fails after others that pass. -/
theorem checked_append_bad {l : List (Bool × Refusal)} {b : Bool} {r : Refusal} {k : Except Stop State}
    (hl : ∀ x ∈ l, x.1 = false) (hb : b = true) : checked (l ++ [(b, r)]) k = .error (.refuse r) := by
  induction l with
  | nil => simp [checked, hb]
  | cons x l ih =>
    simp only [List.mem_cons, forall_eq_or_imp] at hl
    simp [checked, hl.1, ih hl.2]

theorem getLsbD_fieldMask (l w i : Nat) :
    (fieldMask l w).getLsbD i = (decide (i < 32) && (decide (l ≤ i) && decide (i - l < w))) := by
  rw [fieldMask, BitVec.getLsbD_ofNat, Nat.testBit_mul_two_pow, Nat.testBit_two_pow_sub_one]

/-- The bits of a word whose field from `l` to `m` is replaced. -/
theorem insertField_eq {d n r : Word} {l m : Nat}
    (h : ∀ i < 32, r.getLsbD i = if l ≤ i ∧ i ≤ m then n.getLsbD (i - l) else d.getLsbD i) :
    (d &&& ~~~fieldMask l (m + 1 - l)) ||| ((n <<< l) &&& fieldMask l (m + 1 - l)) = r := by
  apply BitVec.eq_of_getLsbD_eq
  intro i hi
  rw [h i hi, BitVec.getLsbD_or, BitVec.getLsbD_and, BitVec.getLsbD_and, BitVec.getLsbD_not, BitVec.getLsbD_shiftLeft,
    getLsbD_fieldMask]
  by_cases hl : l ≤ i <;> by_cases hm : i ≤ m
  · have hin : i - l < m + 1 - l := by omega
    simp [hl, hm, hi, hin, Nat.not_lt.2 hl]
  · have hin : ¬i - l < m + 1 - l := by omega
    simp [hl, hm, hi, hin]
  · simp [hl, hi]
  · simp [hl, hi]

/-- The bits of a field of `m + 1` bits, sign extended. -/
theorem signExtend_field_eq {n r : Word} {l m : Nat}
    (h : ∀ i < 32, r.getLsbD i = n.getLsbD (l + min i m)) : (n.extractLsb' l (m + 1)).signExtend 32 = r := by
  apply BitVec.eq_of_getLsbD_eq
  intro i hi
  rw [h i hi, BitVec.getLsbD_signExtend, BitVec.msb_eq_getLsbD_last, BitVec.getLsbD_extractLsb',
    BitVec.getLsbD_extractLsb']
  by_cases him : i < m + 1
  · simp [hi, him, show min i m = i by omega]
  · simp [hi, him, show min i m = m by omega]

/-- The bits of a field of `m + 1` bits, zero extended. -/
theorem setWidth_field_eq {n r : Word} {l m : Nat}
    (h : ∀ i < 32, r.getLsbD i = (decide (i ≤ m) && n.getLsbD (l + i))) : (n.extractLsb' l (m + 1)).setWidth 32 = r := by
  apply BitVec.eq_of_getLsbD_eq
  intro i hi
  rw [h i hi, BitVec.getLsbD_setWidth, BitVec.getLsbD_extractLsb']
  simp [hi]

/-- A bit field instruction whose field fits. -/
theorem gives_field {i : Instr} {s : State} {allowed b : Bool} {d r : List Reg} {rd : Reg} {x : Refusal} {u v : Word}
    (hb : b = false) (hv : u = v)
    (hx : exec i s = perform (form4 s.cfg (encodingOf i) s.cfg.haveT2) s
      (checked (plainChecks (encodingOf i) d r ++ [(b, x)]) (.ok (s.setReg rd u))) := by unfold exec; exact rfl)
    (hs : sizeOf2 i = 4#32 := by rfl) (ha : plainOk (encodingOf i) (d ++ r) = allowed := by rfl) :
    Gives i s s.cfg.haveT2 allowed [(rd, v)] s.cpsr :=
  gives_setReg hv (hx.trans (by rw [checked_append_pass hb]; rfl)) hs (and_thumb_or _ _) ha

/-- A bit field instruction whose field does not fit. -/
theorem exec_field_refused {i : Instr} {s : State} {allowed b : Bool} {d r : List Reg} {x : Refusal}
    {k : Except Stop State} (ht : s.cfg.haveT2 = true) (hr : runs (encodingOf i) true s = true)
    (hok : allowed = true) (hb : b = true)
    (hx : exec i s = perform (form4 s.cfg (encodingOf i) s.cfg.haveT2) s
      (checked (plainChecks (encodingOf i) d r ++ [(b, x)]) k) := by unfold exec; exact rfl)
    (ha : plainOk (encodingOf i) (d ++ r) = allowed := by rfl) :
    exec i s = .refused x := by
  rw [hx, perform_form4_runs _ _ _ _ _ rfl ht hr, checked_append_bad ((plainChecks_pass _ _ _).2 (ha.trans hok)) hb]

/-- Settles O34: the inserted and extracted fields bit by bit. -/
theorem bitFieldResults : Obligations.BitFieldResults := by
  intro e rd rn lsb m s r d n l t2
  refine ⟨fun hle => ?_, fun hle => ?_, fun ht hr hok => ⟨fun hlt => ?_, fun hlt => ?_⟩⟩
  · have hb : decide (m.toNat < lsb.toNat) = false := decide_eq_false (Nat.not_lt.2 hle)
    refine ⟨fun h => gives_field hb (insertField_eq fun i hi => ?_), fun h => gives_field hb (insertField_eq h)⟩
    rw [h i hi]
    by_cases hl : lsb.toNat ≤ i <;> by_cases hm : i ≤ m.toNat <;> simp [l, d, hl, hm]
  · have hb : decide (31 < lsb.toNat + m.toNat) = false := decide_eq_false (Nat.not_lt.2 hle)
    exact ⟨fun h => gives_field hb (signExtend_field_eq h), fun h => gives_field hb (setWidth_field_eq h)⟩
  · have hok1 : plainOk e [rd] = true := by
      simp only [plainOk, List.all_cons, Bool.and_eq_true] at hok ⊢
      exact ⟨hok.1, rfl⟩
    exact ⟨exec_field_refused ht hr hok1 (decide_eq_true hlt), exec_field_refused ht hr hok (decide_eq_true hlt)⟩
  · exact ⟨exec_field_refused ht hr hok (decide_eq_true hlt), exec_field_refused ht hr hok (decide_eq_true hlt)⟩

/-! ### Packing and selection -/

/-- The two masks of a packing choose the high half of one word and the low half of the other. -/
theorem pack_eq (a b : Word) :
    a.extractLsb' 16 16 ++ b.extractLsb' 0 16 = (a &&& 0xFFFF0000#32) ||| (b &&& 0x0000FFFF#32) := by
  have hmask : ∀ i < 32, (0xFFFF0000#32).getLsbD i = decide (16 ≤ i) ∧ (0x0000FFFF#32).getLsbD i = decide (i < 16) := by
    decide
  apply BitVec.eq_of_getLsbD_eq
  intro i hi
  obtain ⟨hhi, hlo⟩ := hmask i hi
  rw [BitVec.getLsbD_append, BitVec.getLsbD_or, BitVec.getLsbD_and, BitVec.getLsbD_and, hhi, hlo,
    BitVec.getLsbD_extractLsb', BitVec.getLsbD_extractLsb']
  by_cases h : i < 16
  · simp [h]
  · simp [h, show 16 + (i - 16) = i by omega, show i - 16 < 16 by omega, Nat.not_lt.1 h]

/-- Settles O35: the packed halves as masks, the selection byte by byte. -/
theorem packAndSelectResults : Obligations.PackAndSelectResults := by
  intro e rd rn rm i5 s r n m ok v6
  refine ⟨gives_setReg ?_, gives_setReg ?_, fun h => gives_setReg ?_⟩
  · rw [pack_eq, shiftConst_lsl]
  · rw [pack_eq, shiftConst_asr]
  · have hpick : ∀ i < 4, byteNat r i = (if s.cpsr.ge.getLsbD i then byteOf n i else byteOf m i).toNat := fun i hi => by
      rw [h i hi, apply_ite BitVec.toNat, toNat_byteOf, toNat_byteOf]
    exact append_bytes_eq (hpick 0 (by decide)) (hpick 1 (by decide)) (hpick 2 (by decide)) (hpick 3 (by decide))

/-! ### Extension -/

theorem rotated_eq (s : State) (rm : Reg) (rot : BitVec 2) :
    rotated s rm rot = (s.reg rm).rotateRight (8 * rot.toNat) := by
  unfold rotated
  split
  · next h => subst h; simp [BitVec.rotateRight_def]
  · rfl

theorem extract_eq_setWidth (x : Word) (w : Nat) : x.extractLsb' 0 w = x.setWidth w := by
  rw [extractLsb'_eq_setWidth, BitVec.ushiftRight_zero]

theorem setWidth_setWidth_eq_ofNat (x : Word) {k : Nat} (hk : k ≤ 32) :
    (x.setWidth k).setWidth 32 = BitVec.ofNat 32 (x.toNat % 2 ^ k) := by
  apply BitVec.eq_of_toNat_eq
  have := Nat.pow_le_pow_right (show 0 < 2 by decide) hk
  simp

theorem sxthOf_eq (x : Word) : sxthOf x = BitVec.ofInt 32 (x.setWidth 16 : BitVec 16).toInt := by
  rw [sxthOf, extract_eq_setWidth]
  rfl

theorem sxtbOf_eq (x : Word) : sxtbOf x = BitVec.ofInt 32 (x.setWidth 8 : BitVec 8).toInt := by
  rw [sxtbOf, extract_eq_setWidth]
  rfl

theorem sxtb16Of_eq (x : Word) : sxtb16Of x =
    BitVec.ofInt 16 ((x >>> 16).setWidth 8 : BitVec 8).toInt ++ BitVec.ofInt 16 (x.setWidth 8 : BitVec 8).toInt := by
  rw [sxtb16Of, extract_eq_setWidth, extractLsb'_eq_setWidth]
  rfl

theorem uxthOf_eq (x : Word) : uxthOf x = BitVec.ofNat 32 (x.toNat % 65536) := by
  rw [uxthOf, extract_eq_setWidth]
  exact setWidth_setWidth_eq_ofNat x (k := 16) (by decide)

theorem uxtbOf_eq (x : Word) : uxtbOf x = BitVec.ofNat 32 (x.toNat % 256) := by
  rw [uxtbOf, extract_eq_setWidth]
  exact setWidth_setWidth_eq_ofNat x (k := 8) (by decide)

theorem uxtb16Of_eq (x : Word) : uxtb16Of x =
    BitVec.ofNat 16 ((x >>> 16).setWidth 8 : BitVec 8).toNat ++ BitVec.ofNat 16 (x.setWidth 8 : BitVec 8).toNat := by
  rw [uxtb16Of, extract_eq_setWidth, extractLsb'_eq_setWidth, BitVec.ofNat_toNat, BitVec.ofNat_toNat]

theorem addHalves_append (n : Word) (a b : BitVec 16) :
    addHalves n (a ++ b) = ((n >>> 16).setWidth 16 + a) ++ (n.setWidth 16 + b) := by
  rw [addHalves, extract_eq_setWidth n, extractLsb'_eq_setWidth n,
    BitVec.extractLsb'_append_eq_left (w := 16) (w' := 16),
    BitVec.extractLsb'_append_eq_right (w := 16) (w' := 16)]

/-- Settles O36: each extension of the rotated register as the statement writes it. -/
theorem extendResults : Obligations.ExtendResults := by
  intro e rd rn rm rot s
  refine ⟨gives_setReg ?_, gives_setReg ?_, gives_setReg ?_, gives_setReg ?_, gives_setReg ?_, gives_setReg ?_,
    gives_setReg ?_, gives_setReg ?_, gives_setReg ?_, gives_setReg ?_, gives_setReg ?_, gives_setReg ?_⟩ <;>
    simp only [rotated_eq, sxthOf_eq, sxtbOf_eq, sxtb16Of_eq, uxthOf_eq, uxtbOf_eq, uxtb16Of_eq, addHalves_append]

end Sys2Proof.Machine
end

section
/-! SUPPORT and PROOFS. The values of Operand2 (spec 30_encoding section 6) and the addresses of the addressing forms
(spec 47_load_store section 1). -/

namespace Sys2Proof.Machine

open Sys2Proof

/-! ### Immediates of Operand2 -/

theorem extractLsb'_eq_ofNat_iff {n : Nat} (v : BitVec n) (k w c : Nat) :
    v.extractLsb' k w = BitVec.ofNat w c ↔ v.toNat / 2 ^ k % 2 ^ w = c % 2 ^ w := by
  rw [BitVec.toNat_eq, BitVec.extractLsb'_toNat, BitVec.toNat_ofNat, Nat.shiftRight_eq_div_pow]

/-- The rotation of an ARM immediate, rotate field 0 included. -/
theorem armExpandImm_bit (rotate : BitVec 4) (imm8 : BitVec 8) (cin : Bool) {j : Nat} (hj : j < 32) :
    (armExpandImm rotate imm8 cin).1.getLsbD j = (imm8.setWidth 32 : Word).getLsbD ((j + 2 * rotate.toNat) % 32) := by
  unfold armExpandImm
  by_cases h : rotate = 0#4
  · subst h
    simp [Nat.mod_eq_of_lt hj]
  · simp only [if_neg h]
    exact rorWord_bit _ _ hj

theorem thumbExpandImm_byte {i : BitVec 12} (cin : Bool) (h : i.toNat / 256 = 0) :
    thumbExpandImm i cin = .ok (BitVec.ofNat 32 (i.toNat % 256), cin) := by
  have h10 : i.extractLsb' 10 2 = 0#2 := (extractLsb'_eq_ofNat_iff i 10 2 0).2 (by omega)
  have h8 : i.extractLsb' 8 2 = 0#2 := (extractLsb'_eq_ofNat_iff i 8 2 0).2 (by omega)
  have hv : (i.extractLsb' 0 8).setWidth 32 = BitVec.ofNat 32 (i.toNat % 256) := by
    rw [← BitVec.ofNat_toNat, BitVec.extractLsb'_toNat]
    rfl
  simp only [thumbExpandImm, h10, h8, if_true, hv]

/-- The value of a Thumb immediate with a byte pattern. -/
def patternOf (k : Nat) (b : Byte) : Word :=
  if k = 1 then 0#8 ++ b ++ 0#8 ++ b else if k = 2 then b ++ 0#8 ++ b ++ 0#8 else b ++ b ++ b ++ b

theorem patternOf_eq {k : Nat} (h1 : 1 ≤ k) (h3 : k ≤ 3) (b : Byte) : patternOf k b =
    BitVec.ofNat 32 (b.toNat * if k = 1 then 65537 else if k = 2 then 16777472 else 16843009) := by
  have hb := b.isLt
  apply BitVec.eq_of_toNat_eq
  unfold patternOf
  interval_cases k <;>
    simp only [reduceIte, Nat.reduceEqDiff, OfNat.ofNat_ne_one, toNat_append', BitVec.toNat_ofNat] <;> omega

theorem thumbExpandImm_pattern {i : BitVec 12} (cin : Bool) (h1 : 1 ≤ i.toNat / 256) (h3 : i.toNat / 256 ≤ 3) :
    thumbExpandImm i cin = if i.toNat % 256 = 0 then .error (.refuse .unpredictableImmediate)
      else .ok (patternOf (i.toNat / 256) (i.extractLsb' 0 8), cin) := by
  have h10 : i.extractLsb' 10 2 = 0#2 := (extractLsb'_eq_ofNat_iff i 10 2 0).2 (by omega)
  have h8 : ∀ c < 4, i.extractLsb' 8 2 = BitVec.ofNat 2 c ↔ i.toNat / 256 = c := fun c hc => by
    rw [extractLsb'_eq_ofNat_iff]
    omega
  have h0 : i.extractLsb' 0 8 = 0#8 ↔ i.toNat % 256 = 0 := by
    rw [extractLsb'_eq_ofNat_iff i 0 8 0]
    omega
  simp only [thumbExpandImm, h10, if_true, h8 0 (by decide), h8 1 (by decide), h8 2 (by decide), h0, patternOf,
    if_neg (show ¬i.toNat / 256 = 0 by omega)]
  split_ifs <;> rfl

/-- A rotated Thumb immediate: the byte has bit 7 set and the amount is at least 8, so that the rotation is a left
shift. -/
theorem thumbExpandImm_rotated {i : BitVec 12} (cin : Bool) (h : 4 ≤ i.toNat / 256) :
    let v := BitVec.ofNat 32 ((128 + i.toNat % 128) * 2 ^ (32 - i.toNat / 128))
    thumbExpandImm i cin = .ok (v, v.getLsbD 31) := by
  intro v
  have hi := i.isLt
  have h10 : ¬i.extractLsb' 10 2 = 0#2 := fun h' => by
    have := (extractLsb'_eq_ofNat_iff i 10 2 0).1 h'
    omega
  have hb : ((1#1 ++ i.extractLsb' 0 7).setWidth 32 : Word).toNat = 128 + i.toNat % 128 := by
    rw [BitVec.toNat_setWidth, toNat_append', BitVec.extractLsb'_toNat]
    simp
    omega
  have ha : (i.extractLsb' 7 5).toNat = i.toNat / 128 := by
    rw [BitVec.extractLsb'_toNat, Nat.shiftRight_eq_div_pow]
    omega
  have hv : rorWord ((1#1 ++ i.extractLsb' 0 7).setWidth 32) (i.extractLsb' 7 5).toNat = v := by
    have hr : ((1#1 ++ i.extractLsb' 0 7).setWidth 32 : Word) >>> (i.toNat / 128 % 32) = 0#32 := by
      apply BitVec.eq_of_toNat_eq
      rw [BitVec.toNat_ushiftRight, hb, Nat.shiftRight_eq_div_pow]
      exact Nat.div_eq_of_lt (lt_of_lt_of_le (show _ < 2 ^ 8 by omega) (Nat.pow_le_pow_right (by decide) (by omega)))
    rw [rorWord, ha, hr, BitVec.zero_or]
    apply BitVec.eq_of_toNat_eq
    rw [BitVec.toNat_shiftLeft, hb, Nat.shiftLeft_eq, BitVec.toNat_ofNat, Nat.mod_eq_of_lt (by omega : _ < 32)]
  simp only [thumbExpandImm, if_neg h10, hv, BitVec.msb_eq_getLsbD_last]

/-- Settles O5: the immediates as numbers, the shifts by the shift table. -/
theorem operand2Values : Obligations.Operand2Values := by
  intro s rm rs imm5 ty rotate imm8 i cin b k turned five
  have hpat := thumbExpandImm_pattern (i := i) cin
  have hb : (i.extractLsb' 0 8).toNat = b := by simp [BitVec.extractLsb'_toNat, b]
  have h0 : imm5 = 0#5 ↔ five = 0 := by rw [BitVec.toNat_eq]; rfl
  have hval : ∀ n m, 1 ≤ n → n ≤ 3 → (if n = 1 then 65537 else if n = 2 then 16777472 else 16843009) = m → k = n →
      b ≠ 0 → op2 s (.immT i) = .ok (BitVec.ofNat 32 (b * m), cin) := fun n m h1 h3 hm hk hb0 => by
    subst hk
    rw [op2, hpat h1 h3, if_neg hb0, patternOf_eq h1 h3, hb, hm]
  refine ⟨⟨_, _, rfl, fun j hj => armExpandImm_bit _ _ cin hj, ?_⟩, thumbExpandImm_byte cin,
    hval 1 _ (by decide) (by decide) rfl, hval 2 _ (by decide) (by decide) rfl, hval 3 _ (by decide) (by decide) rfl,
    fun h1 h3 h0 => ?_, thumbExpandImm_rotated cin, ?_, ?_, ?_, ?_, ?_⟩
  · simp only [BitVec.msb_eq_getLsbD_last]
    rfl
  · rw [op2, hpat h1 h3, if_pos h0]
  · rfl
  · simp only [op2, shiftConst, shiftAmount, h0]
    rfl
  · simp only [op2, shiftConst, shiftAmount, h0]
    rfl
  · simp only [op2, shiftConst, shiftAmount, h0, true_and]
    rfl
  · rw [op2, toNat_low_byte]

/-! ### Addressing forms -/

theorem shiftReg_eq (w : Word) (k : Nat) : w <<< k = w * BitVec.ofNat 32 (2 ^ k) := by
  apply BitVec.eq_of_toNat_eq
  rw [BitVec.toNat_shiftLeft, BitVec.toNat_mul, BitVec.toNat_ofNat, Nat.mul_mod_mod, Nat.shiftLeft_eq]

/-- Settles O9: each form by the definition, with the literal fields as numbers. -/
theorem addressingForms : Obligations.AddressingForms := by
  intro s add rn rm i12 i8 ty i5 i2 off b move m12 m8
  have h12 : offsetBy add b (i12.setWidth 32) = m12 := by rw [← BitVec.ofNat_toNat]; rfl
  have h8 : offsetBy add b (i8.setWidth 32) = m8 := by rw [← BitVec.ofNat_toNat]; rfl
  have hidx : ∀ {v v' : Word}, offsetBy add b v = v' →
      indexed .offset rn b (offsetBy add b v) = ⟨v', none⟩ ∧
        indexed .pre rn b (offsetBy add b v) = ⟨v', some (rn, v')⟩ ∧
        indexed .post rn b (offsetBy add b v) = ⟨b, some (rn, v')⟩ := fun h => by subst h; exact ⟨rfl, rfl, rfl⟩
  have hreg : rn ≠ 15#4 → s.reg rn = b := fun h => (if_neg h).symm
  refine ⟨hidx h12, hidx h8, fun hoff => ?_, hidx rfl, ?_, fun hn => ⟨?_, ?_, ?_, ?_, ?_, ?_, ?_, ?_, ?_⟩⟩
  · have ho : offsetBy add b (shiftConst (s.reg rm) ty i5 s.cpsr.c).1 = move off := by
      have := Except.ok.inj hoff
      rw [this]
      rfl
    obtain ⟨h1, h2, h3⟩ := hidx ho
    refine ⟨h1, h2, h3, fun hn => ?_⟩
    rw [addressT, hreg hn]
    exact h3
  · rw [address, ← BitVec.ofNat_toNat]
    rfl
  · rw [address, hreg hn, BitVec.ofNat_toNat]
  · rw [address, hreg hn]; exact (hidx h8).1
  · rw [address, hreg hn]; exact (hidx h8).2.1
  · rw [address, hreg hn]; exact (hidx h8).2.2
  · rw [address, hreg hn, shiftReg_eq]
  · rw [addressT, hreg hn]; exact (hidx h12).2.2
  · rw [addressT, hreg hn]; exact (hidx h8).2.2
  · rw [addressT, hreg hn]; exact (hidx rfl).2.2
  · rw [addressT, hreg hn, BitVec.ofNat_toNat]

end Sys2Proof.Machine
end

section
/-! SUPPORT and PROOFS. Registers, bytes of memory and the checks of an access (spec 10_state sections 1, 2 and 5,
20_memory). -/

namespace Sys2Proof.Machine

open Sys2Proof

/-! ### Registers -/

/-- Settles O6: which modes share a register is a finite table. -/
theorem registerBanks : Obligations.RegisterBanks := by
  refine ⟨fun s i j v hi => ⟨s.setReg_reg_same i v hi, fun hj => s.setReg_reg_ne i j v (Ne.symm hj),
      fun q hq => ?_, ?_⟩,
    fun m k => ?_, fun s => ?_⟩
  · rw [State.setReg_regs_get, if_neg (Ne.symm hq)]
  · unfold State.setReg
    split <;> rfl
  · cases m <;> cases k <;> decide
  · rw [State.reg, (physReg_eq_none _ _).2 rfl]
    change s.pcRead = _
    unfold State.pcRead
    split <;> rfl

/-! ### The bytes of an access -/

/-- Where byte `k` of a value stands in an access. -/
def placeInAccess (big : Bool) (w : Width) (k : Nat) : Nat := if big then w.bytes - 1 - k else k

theorem placeInAccess_lt {big : Bool} {w : Width} {k : Nat} (hk : k < w.bytes) : placeInAccess big w k < w.bytes := by
  unfold placeInAccess
  split <;> omega

theorem placeInAccess_involutive {big : Bool} {w : Width} {k : Nat} (hk : k < w.bytes) :
    placeInAccess big w (placeInAccess big w k) = k := by
  unfold placeInAccess
  split <;> omega

theorem touched_eq (a : Word) (w : Width) : touched a w = (List.range w.bytes).map fun k => a + BitVec.ofNat 32 k := by
  cases w <;> simp [touched, Width.bytes, List.range_succ]

theorem mem_touched {a b : Word} {w : Width} : b ∈ touched a w ↔ ∃ k < w.bytes, b = a + BitVec.ofNat 32 k := by
  simp [touched_eq, eq_comm]

theorem width_bytes_le (w : Width) : w.bytes ≤ 4 := by cases w <;> decide

/-- The bytes of one access have different addresses. -/
theorem offset_inj {a : Word} {w : Width} {j k : Nat} (hj : j < w.bytes) (hk : k < w.bytes)
    (h : a + BitVec.ofNat 32 j = a + BitVec.ofNat 32 k) : j = k := by
  have hw := width_bytes_le w
  have := congrArg BitVec.toNat (add_left_cancel h)
  rw [BitVec.toNat_ofNat, BitVec.toNat_ofNat, Nat.mod_eq_of_lt (by omega), Nat.mod_eq_of_lt (by omega)] at this
  exact this

/-- A store puts, at each byte of the access, the byte of the value that stands there. -/
theorem storeBytes_eq (big : Bool) (a : Word) (w : Width) (v : Word) : storeBytes big a w v =
    (List.range w.bytes).map fun k => (a + BitVec.ofNat 32 k, (v >>> (8 * placeInAccess big w k)).setWidth 8) := by
  cases w <;> cases big <;>
    simp [storeBytes, Width.bytes, placeInAccess, List.range_succ, extractLsb'_eq_setWidth]

theorem byteAfterStore_inside (s : State) (a v : Word) {w : Width} {k : Nat} (hk : k < w.bytes) :
    byteAfterStore s a w v (a + BitVec.ofNat 32 k) = (v >>> (8 * placeInAccess s.bigEndian w k)).setWidth 8 := by
  unfold byteAfterStore
  cases hf : (List.range w.bytes).find? (fun j => a + BitVec.ofNat 32 j == a + BitVec.ofNat 32 k) with
  | none => exact absurd (List.find?_eq_none.1 hf k (List.mem_range.2 hk)) (by simp)
  | some j =>
    have hj : j = k := offset_inj (a := a) (List.mem_range.1 (List.mem_of_find?_eq_some hf)) hk
      (by simpa using List.find?_some hf)
    rw [hj]
    rfl

theorem byteAfterStore_outside (s : State) {a b : Word} (v : Word) {w : Width} (h : b ∉ touched a w) :
    byteAfterStore s a w v b = s.byteAt b := by
  unfold byteAfterStore
  cases hf : (List.range w.bytes).find? (fun j => a + BitVec.ofNat 32 j == b) with
  | none => rfl
  | some j =>
    have hj : a + BitVec.ofNat 32 j = b := by simpa using List.find?_some hf
    exact absurd (mem_touched.2 ⟨j, List.mem_range.1 (List.mem_of_find?_eq_some hf), hj.symm⟩) h

/-- A store to a canonical memory, byte by byte. -/
theorem storeValue_byteAt {s : State} (hwf : Memory.wf s.mem = true) (a b v : Word) (w : Width) :
    (s.storeValue a w v).byteAt b = byteAfterStore s a w v b := by
  by_cases hb : b ∈ touched a w
  · obtain ⟨k, hk, rfl⟩ := mem_touched.1 hb
    rw [byteAfterStore_inside s a v hk]
    change Memory.get (Memory.putAll s.mem (storeBytes s.bigEndian a w v)) _ = _
    rw [Memory.get_putAll _ _ _ hwf, storeBytes_eq]
    split
    · next x hf =>
      obtain ⟨j, hj, rfl⟩ := List.mem_map.1 (List.mem_reverse.1 (List.mem_of_find?_eq_some hf))
      have hjk : j = k := offset_inj (a := a) (List.mem_range.1 hj) hk (by simpa using List.find?_some hf)
      rw [hjk]
    · next hf =>
      exact absurd (List.find?_eq_none.1 hf (a + BitVec.ofNat 32 k, _)
        (List.mem_reverse.2 (List.mem_map.2 ⟨k, List.mem_range.2 hk, rfl⟩))) (by simp)
  · rw [byteAfterStore_outside s v hb, State.storeValue_byteAt_ne _ _ _ _ _ hb]

/-- Four bytes as a number. -/
theorem bytes4_eq (b0 b1 b2 b3 : Byte) : b3 ++ b2 ++ b1 ++ b0 =
    BitVec.ofNat 32 (b0.toNat * 256 ^ 0 + b1.toNat * 256 ^ 1 + b2.toNat * 256 ^ 2 + b3.toNat * 256 ^ 3) := by
  apply BitVec.eq_of_toNat_eq
  have := b0.isLt
  have := b1.isLt
  have := b2.isLt
  have := b3.isLt
  simp only [toNat_append', BitVec.toNat_ofNat]
  omega

/-- Two bytes as a number. -/
theorem bytes2_eq (b0 b1 : Byte) :
    (b1 ++ b0).setWidth 32 = BitVec.ofNat 32 (b0.toNat * 256 ^ 0 + b1.toNat * 256 ^ 1) := by
  rw [← BitVec.ofNat_toNat, toNat_append']
  congr 1
  omega

/-- A sum over the bytes of an access. -/
theorem sum_over_bytes (w : Width) (f : Nat → Nat) : ((List.range w.bytes).map f).sum = match w with
    | .byte => f 0
    | .half => f 0 + f 1
    | .word => f 0 + f 1 + f 2 + f 3 := by
  cases w <;> simp [Width.bytes, List.range_succ, Nat.add_assoc]

/-- A load's value as the number of its bytes. -/
theorem loadValue_eq (s : State) (a : Word) (w : Width) : s.loadValue a w = BitVec.ofNat 32 (numberAt s a w) := by
  have h0 : a + 0#32 = a := BitVec.add_zero a
  rw [numberAt, sum_over_bytes]
  unfold State.loadValue
  cases w <;> cases s.bigEndian
  · simp only [h0, Width.bytes, Bool.false_eq_true, if_false, Nat.pow_zero, Nat.mul_one, BitVec.ofNat_toNat]
  · simp only [h0, Width.bytes, if_true, Nat.reduceSub, Nat.pow_zero, Nat.mul_one, BitVec.ofNat_toNat]
  · simp only [bytes2_eq, h0, Bool.false_eq_true, if_false]
  · simp only [bytes2_eq, h0, Width.bytes, if_true, Nat.reduceSub]
  · simp only [bytes4_eq, h0, Bool.false_eq_true, if_false]
  · simp only [bytes4_eq, h0, Width.bytes, if_true, Nat.reduceSub]

/-- The bytes of a value make the value again. -/
theorem sum_bytes (v : Word) (w : Width) :
    ((List.range w.bytes).map fun k => ((v >>> (8 * k)).setWidth 8 : Byte).toNat * 256 ^ k).sum =
      v.toNat % 2 ^ (8 * w.bytes) := by
  have hv := v.isLt
  have hb : ∀ k, ((v >>> (8 * k)).setWidth 8 : Byte).toNat = byteNat v k := fun k => by
    rw [← extractLsb'_eq_setWidth, toNat_extract_byte]
  simp only [sum_over_bytes, hb, byteNat]
  cases w <;> simp only [Width.bytes] <;> omega

theorem numberAt_storeValue {s : State} (hwf : Memory.wf s.mem = true) (a v : Word) (w : Width) :
    numberAt (s.storeValue a w v) a w = v.toNat % 2 ^ (8 * w.bytes) := by
  rw [← sum_bytes]
  refine congrArg List.sum (List.map_congr_left fun k hk => ?_)
  have hk := List.mem_range.1 hk
  have hp := placeInAccess_lt (big := s.bigEndian) hk
  change ((s.storeValue a w v).byteAt (a + BitVec.ofNat 32 (placeInAccess s.bigEndian w k))).toNat * _ = _
  rw [storeValue_byteAt hwf, byteAfterStore_inside s a v hp, placeInAccess_involutive hk]

/-- Settles O7: the place of a byte in an access is its own inverse, so what is stored is loaded. -/
theorem storedBytesReadBack : Obligations.StoredBytesReadBack := by
  intro s a w v
  refine ⟨loadValue_eq s a w, fun hwf => ⟨fun b => storeValue_byteAt hwf a b v w, ?_⟩, rfl, Iff.rfl⟩
  rw [loadValue_eq, BitVec.toNat_ofNat, numberAt_storeValue hwf, Nat.mod_eq_of_lt]
  exact lt_of_lt_of_le (Nat.mod_lt _ (Nat.two_pow_pos _)) (Nat.pow_le_pow_right (by decide)
    (by have := width_bytes_le w; omega))

/-! ### Canonical memories -/

/-- Outside the address space nothing is listed. -/
theorem Memory.get_above {m : List Host.Cell} {lo a : Nat} (h : Memory.wfFrom lo m = true) (ha : 4294967296 ≤ a) :
    Memory.get m a = blank := by
  induction m generalizing lo with
  | nil => rfl
  | cons x m ih =>
    obtain ⟨y, b⟩ := x
    simp only [Memory.wfFrom, Bool.and_eq_true, decide_eq_true_eq] at h
    obtain ⟨⟨⟨-, hy⟩, -⟩, hm⟩ := h
    rw [Memory.get, if_neg (by omega)]
    exact ih hm

/-- The first listed address differs from what an unlisted one reads as. -/
theorem Memory.get_head {m : List Host.Cell} {lo y : Nat} {b : Byte} (h : Memory.wfFrom lo ((y, b) :: m) = true) :
    Memory.get ((y, b) :: m) y ≠ blank := by
  simp only [Memory.wfFrom, Bool.and_eq_true, bne_iff_ne] at h
  simpa [Memory.get] using h.1.2

/-- Canonical memories that read the same everywhere are equal: their first addresses are, and so are the rests. -/
theorem Memory.eq_of_get_eq {m k : List Host.Cell} {lo lo' : Nat} (hm : Memory.wfFrom lo m = true)
    (hk : Memory.wfFrom lo' k = true) (h : ∀ a, Memory.get m a = Memory.get k a) : m = k := by
  induction m generalizing k lo lo' with
  | nil =>
    cases k with
    | nil => rfl
    | cons y k => exact absurd (h y.1).symm (Memory.get_head hk)
  | cons x m ih =>
    obtain ⟨x, b⟩ := x
    cases k with
    | nil => exact absurd (h x) (Memory.get_head hm)
    | cons y k =>
      obtain ⟨y, d⟩ := y
      have hx := Memory.get_head hm
      have hy := Memory.get_head hk
      simp only [Memory.wfFrom, Bool.and_eq_true, decide_eq_true_eq] at hm hk
      obtain ⟨_, hm⟩ := hm
      obtain ⟨_, hk⟩ := hk
      have hxy : x = y := by
        rcases Nat.lt_trichotomy x y with hlt | heq | hlt
        · refine absurd ((h x).trans ?_) hx
          rw [Memory.get, if_neg (by omega)]
          exact Memory.get_below k (y + 1) x hk (by omega)
        · exact heq
        · refine absurd ((h y).symm.trans ?_) hy
          rw [Memory.get, if_neg (by omega)]
          exact Memory.get_below m (x + 1) y hm (by omega)
      subst hxy
      have hbd : b = d := by simpa [Memory.get] using h x
      rw [hbd, ih hm hk fun a => ?_]
      rcases Nat.lt_or_ge x a with ha | ha
      · have := h a
        rwa [Memory.get, Memory.get, if_neg (by omega), if_neg (by omega)] at this
      · rw [Memory.get_below m (x + 1) a hm (by omega), Memory.get_below k (x + 1) a hk (by omega)]

theorem Memory.eq_of_words {m k : List Host.Cell} (hm : Memory.wf m = true) (hk : Memory.wf k = true)
    (h : ∀ a : Word, Memory.get m a.toNat = Memory.get k a.toNat) : m = k := by
  refine Memory.eq_of_get_eq hm hk fun a => ?_
  rcases Nat.lt_or_ge a 4294967296 with ha | ha
  · have := h (BitVec.ofNat 32 a)
    rwa [BitVec.toNat_ofNat, Nat.mod_eq_of_lt (by omega)] at this
  · rw [Memory.get_above hm ha, Memory.get_above hk ha]

/-- Settles O54: a store that changes no byte keeps the memory, as canonical memories with equal bytes are equal. -/
theorem memoryStaysCanonical : Obligations.MemoryStaysCanonical := by
  refine ⟨fun s a w v hwf => ⟨s.storeValue_wf a w v hwf, fun h b _ => ?_, fun h => ?_⟩,
    fun m k hm hk h => Memory.eq_of_words hm hk h⟩
  · rw [← storeValue_byteAt hwf, h]
  · have hmem : (s.storeValue a w v).mem = s.mem := by
      refine Memory.eq_of_words (s.storeValue_wf a w v hwf) hwf fun b => ?_
      change (s.storeValue a w v).byteAt b = s.byteAt b
      rw [storeValue_byteAt hwf]
      by_cases hb : b ∈ touched a w
      · exact (h b hb).symm
      · exact byteAfterStore_outside s v hb
    calc s.storeValue a w v = { s with mem := (s.storeValue a w v).mem } := rfl
      _ = s := by rw [hmem]

/-! ### The checks of an access -/

/-- The right an access needs. -/
def rightOf (wr : Bool) : Rights → Bool := if wr then Rights.write else Rights.read

theorem byteAbort_isSome (c : Config) (priv wr : Bool) (a : Word) :
    (byteAbort c priv wr a).isSome = lacks c priv (rightOf wr) a := by
  unfold byteAbort lacks rightOf
  cases rightsAt c priv a with
  | none => rfl
  | some r => cases wr <;> cases hr : r.read <;> cases hw : r.write <;> simp [hr, hw]

theorem byteAbort_translation (c : Config) (priv wr : Bool) (a : Word) :
    byteAbort c priv wr a = some .translation ↔ rightsAt c priv a = none := by
  unfold byteAbort
  cases rightsAt c priv a with
  | none => simp
  | some r => cases wr <;> cases hr : r.read <;> cases hw : r.write <;> simp

theorem unaligned_ne_fault (c : Config) : c.unalignedPolicy ≠ .fault ↔ c.unalignedPolicy = .v6 := by
  cases c.unalignedPolicy <;> decide

/-- An access does not abort just where it is allowed. -/
theorem accessAbort_none_iff (s : State) (priv wr : Bool) (a : Word) (w : Width) :
    accessAbort s priv wr a w = none ↔ allowsAccess s priv (rightOf wr) a w = true := by
  rw [accessAbort_none, unaligned_ne_fault, allowsAccess, Bool.and_eq_true, Bool.or_eq_true, beq_iff_eq, beq_iff_eq,
    List.all_eq_true]
  refine and_congr_right fun _ => ?_
  simp only [touched_eq, List.mem_map, forall_exists_index, and_imp, forall_apply_eq_imp_iff₂, Bool.not_eq_true',
    ← byteAbort_isSome, Option.isSome_eq_false_iff, Option.isNone_iff_eq_none]

theorem touchesCode_eq (s : State) (a : Word) (w : Width) :
    (touched a w).any (executable s.cfg) = touchesCode s a w := by
  rw [touched_eq, List.any_map]
  rfl

/-- The abort at the lowest byte that faults. -/
theorem accessAbort_lowest {s : State} {priv wr : Bool} {a b : Word} {w : Width}
    (hal : a.toNat % w.bytes = 0 ∨ s.cfg.unalignedPolicy = .v6)
    (hb : Lowest (fun x => (∃ k < w.bytes, x = a + BitVec.ofNat 32 k) ∧ lacks s.cfg priv (rightOf wr) x = true) b) :
    accessAbort s priv wr a w = some (.dataAbort
      (if ∃ k < w.bytes, rightsAt s.cfg priv (a + BitVec.ofNat 32 k) = none then .translation else .permission) b wr) := by
  obtain ⟨⟨hbm, hbl⟩, hlow⟩ := hb
  cases he : accessAbort s priv wr a w with
  | none =>
    have := (accessAbort_none s priv wr a w).1 he
    have hn := this.2 b (mem_touched.2 hbm)
    rw [← byteAbort_isSome, hn] at hbl
    cases hbl
  | some e =>
    obtain ⟨k, b', hm, rfl, h⟩ := accessAbort_some s priv wr a w e he
    rcases h with ⟨rfl, rfl⟩ | ⟨hs, hl, rfl⟩
    · unfold accessAbort at he
      rw [if_neg (by rintro ⟨h1, h2⟩; rcases hal with h | h <;> simp_all)] at he
      split at he
      · cases he
      · injection he with he
        injection he with hk
        split at hk <;> cases hk
    · have hbb : b' = b := by
        rw [byteAbort_isSome] at hs
        have h1 := hl b (mem_touched.2 hbm) (by rw [byteAbort_isSome, hbl])
        have h2 := hlow b' ⟨mem_touched.1 hm, hs⟩
        exact BitVec.eq_of_toNat_eq (by omega)
      subst hbb
      congr 2
      refine if_congr ?_ rfl rfl
      simp only [byteAbort_translation, mem_touched]
      exact ⟨fun ⟨x, ⟨k, hk, hx⟩, h⟩ => ⟨k, hk, hx ▸ h⟩, fun ⟨k, hk, h⟩ => ⟨_, ⟨k, hk, rfl⟩, h⟩⟩

theorem memRead_of_abort {s : State} {priv : Bool} {a : Word} {w : Width} {e : Exc}
    (h : accessAbort s priv false a w = some e) : memRead s priv a w = .error (.raise e) := by
  rw [memRead, h]

theorem memWrite_of_abort {s : State} {priv : Bool} {a v : Word} {w : Width} {e : Exc}
    (h : accessAbort s priv true a w = some e) : memWrite s priv a w v = .error (.raise e) := by
  rw [memWrite, h]

theorem memRead_allowed {s : State} {priv : Bool} {a : Word} {w : Width}
    (h : allowsAccess s priv Rights.read a w = true) : memRead s priv a w = .ok (s.loadValue a w) := by
  rw [memRead, (accessAbort_none_iff s priv false a w).2 h]

theorem memWrite_allowed {s : State} {priv : Bool} {a v : Word} {w : Width}
    (h : allowsAccess s priv Rights.write a w = true) : memWrite s priv a w v =
      if touchesCode s a w then .error (.refuse .storeToCode) else .ok (s.storeValue a w v) := by
  rw [memWrite, (accessAbort_none_iff s priv true a w).2 h, touchesCode_eq]

/-- Settles O8: the checks in their order, the lowest faulting byte being unique. -/
theorem accessChecks : Obligations.AccessChecks := by
  intro s priv a w v
  refine ⟨memRead_allowed, memWrite_allowed, fun hal hp => ?_, fun hal => ?_⟩
  · have he : ∀ wr, accessAbort s priv wr a w = some (.dataAbort .alignment a wr) := fun wr => by
      rw [accessAbort, if_pos ⟨hal, hp⟩]
    exact ⟨memRead_of_abort (he false), memWrite_of_abort (he true)⟩
  · intro faults kind b
    exact ⟨fun h => memRead_of_abort (accessAbort_lowest (wr := false) hal h),
      fun h => memWrite_of_abort (accessAbort_lowest (wr := true) hal h)⟩

end Sys2Proof.Machine
end

section
/-! SUPPORT and PROOFS. The step and the fetch (spec 70_reset_and_hazards, 60_exceptions sections 2 and 5). -/

namespace Sys2Proof.Machine

open Sys2Proof

/-! ### Raising an exception -/

theorem raiseExc_fault {s : State} (h : s.cfg.trapModel = .fault) (x : Exc) :
    raiseExc x s = .fault (.exception x s.pc) := by
  rw [raiseExc, h]

theorem raiseExc_classic {s : State} (h : s.cfg.trapModel = .classic) (x : Exc) :
    raiseExc x s = .next (takeException x s) := by
  rw [raiseExc, h]

/-- Settles O49: the two trap models are the two branches of `raiseExc`. -/
theorem faultState : Obligations.FaultState :=
  fun x _ => ⟨fun h => raiseExc_fault h x, fun h => raiseExc_classic h x⟩

/-- A step that raises an exception, in both trap models. -/
theorem step_raises {s : State} {x : Exc} (h : step s = tick (raiseExc x s)) :
    (s.cfg.trapModel = .fault → step s = .fault (.exception x s.pc)) ∧
      (s.cfg.trapModel = .classic → step s = .next { takeException x s with stepNo := s.stepNo + 1 }) := by
  refine ⟨fun ht => by rw [h, raiseExc_fault ht]; rfl, fun ht => ?_⟩
  rw [h, raiseExc_classic ht, tick, takeException_stepNo]

/-! ### The branches of a step -/

theorem step_interrupted {s : State} {x : Exc} (hh : s.pc ≠ s.cfg.haltAddress) (hp : pendingInterrupt s = some x) :
    step s = tick (raiseExc x s) := by
  rw [step, if_neg hh, hp]

/-- A step with nothing pending goes on to the fetch. -/
theorem step_fetches {s : State} (hh : s.pc ≠ s.cfg.haltAddress) (hp : pendingInterrupt s = none)
    (hj : s.cpsr.j = false) :
    step s = match fetch s with
      | none => tick (raiseExc (.prefetchAbort s.pc) s)
      | some c => if wraps s c then .refused .pcWrap else match decodeCode c with
        | none => .refused .notInScope
        | some i => tick (exec i s) := by
  rw [step, if_neg hh, hp]
  simp only [hj]
  rfl

/-- Settles O11: the branches of `pendingInterrupt` in their order. -/
theorem interruptPriority : Obligations.InterruptPriority := by
  intro s ev hh hev taken
  have hp : pendingInterrupt s = if ev.fiq && !s.cpsr.f then some .fiq
      else if ev.irq && !s.cpsr.i then some .irq
      else if ev.abort && (!s.cfg.haveV6 || !s.cpsr.a) then some .asyncAbort else none := by
    rw [pendingInterrupt, hev]
  have ht : ∀ {x}, pendingInterrupt s = some x → taken x := fun h => step_raises (step_interrupted hh h)
  refine ⟨fun h1 h2 => ht ?_, fun h1 h2 h3 => ht ?_, fun h1 h2 h3 h4 => ht ?_, fun h1 h2 h3 => ?_⟩
  · simp [hp, h1, h2]
  · rcases h1 with h1 | h1 <;> simp [hp, h1, h2, h3]
  · rcases h1 with h1 | h1 <;> rcases h2 with h2 | h2 <;> rcases h4 with h4 | h4 <;> simp [hp, h1, h2, h3, h4]
  · rcases h1 with h1 | h1 <;> rcases h2 with h2 | h2 <;> rcases h3 with h3 | ⟨h3, h4⟩ <;> simp [*]

/-! ### The fetch -/

theorem fetchBytes_eq (s : State) : fetchBytes s =
    (((List.range 4).map fun k => s.pc + BitVec.ofNat 32 k).takeWhile (canFetch s)).map s.byteAt := by
  rw [fetchBytes, touched_eq]
  rfl

/-- The first bytes that can be fetched are fetched. -/
theorem fetchBytes_of_canFetch {s : State} {n : Nat} (hn : n ≤ 4)
    (h : ∀ k < n, canFetch s (s.pc + BitVec.ofNat 32 k) = true) :
    ∃ l, fetchBytes s = ((List.range n).map fun k => s.byteAt (s.pc + BitVec.ofNat 32 k)) ++ l := by
  have h4 : 4 = n + (4 - n) := by omega
  rw [fetchBytes_eq, h4, List.range_add, List.map_append, List.takeWhile_append_of_pos (by simpa using h),
    List.map_append, List.map_map]
  exact ⟨_, rfl⟩

/-- The fetch stops at a byte that cannot be fetched. -/
theorem length_fetchBytes_le {s : State} {k : Nat}
    (h : canFetch s (s.pc + BitVec.ofNat 32 k) = false) : (fetchBytes s).length ≤ k := by
  rw [fetchBytes_eq, List.length_map]
  by_contra hlt
  have hlt := Nat.lt_of_not_le hlt
  have hmem := List.mem_takeWhile_imp (List.getElem_mem hlt)
  rw [(List.takeWhile_prefix _).getElem, List.getElem_map, List.getElem_range, h] at hmem
  cases hmem

theorem readCode_append {thumb big : Bool} {l r x : List Byte} {c : Code} (h : readCode thumb big l = some (c, r)) :
    readCode thumb big (l ++ x) = some (c, r ++ x) := by
  unfold readCode at h
  split at h
  · next b0 b1 rest =>
    simp only [List.cons_append, readCode]
    split at h
    · next hn =>
      cases h
      rw [if_pos hn]
    · next hn =>
      rw [if_neg hn]
      split at h
      · split at h <;> cases h <;> simp_all
      · cases h
  · cases h

theorem readCode_arm_short {big : Bool} {l : List Byte} (h : l.length < 4) : readCode false big l = none := by
  match l, h with
  | [], _ => rfl
  | [_], _ => rfl
  | [_, _], _ => rfl
  | [_, _, _], _ => rfl

theorem readCode_short {thumb big : Bool} {l : List Byte} (h : l.length < 2) : readCode thumb big l = none := by
  match l, h with
  | [], _ => rfl
  | [_], _ => rfl

theorem readCode_wide_short {big : Bool} {l : List Byte} (h : l.length < 4)
    (hw : ∀ b0 b1 r, l = b0 :: b1 :: r → isWide (halfOf big b0 b1) = true) : readCode true big l = none := by
  match l, h with
  | [], _ => rfl
  | [_], _ => rfl
  | [b0, b1], _ => simp [readCode, hw b0 b1 [] rfl]
  | [b0, b1, b2], _ => simp [readCode, hw b0 b1 [b2] rfl]

/-- The first two bytes fetched are those at the PC. -/
theorem fetchBytes_head {s : State} {b0 b1 : Byte} {r : List Byte} (h : fetchBytes s = b0 :: b1 :: r) :
    b0 = s.byteAt (s.pc + 0#32) ∧ b1 = s.byteAt (s.pc + 1#32) := by
  have hp : fetchBytes s <+: ((List.range 4).map fun k => s.pc + BitVec.ofNat 32 k).map s.byteAt := by
    rw [fetchBytes_eq]
    exact (List.takeWhile_prefix _).map _
  rw [h] at hp
  obtain ⟨l, hl⟩ := hp
  simp only [List.range_succ, List.range_zero, List.nil_append, List.cons_append, List.map_cons, List.cons.injEq] at hl
  exact ⟨hl.1, hl.2.1⟩

theorem fetch_eq_none {s : State} (h : readCode s.cpsr.t s.cfg.instrBigEndian (fetchBytes s) = none) :
    fetch s = none := by
  rw [fetch, h]
  rfl

theorem wraps_eq (s : State) (c : Code) : wraps s c = true ↔ 2 ^ 32 ≤ s.pc.toNat + c.size := by
  rw [wraps, decide_eq_true_iff]
  rfl

/-- No instruction writes the number of the step. -/
theorem exec_stepNo {i : Instr} {s t : State} (h : exec i s = .next t) : t.stepNo = s.stepNo := by
  obtain ⟨f, -, -, ⟨u, hk, rfl⟩ | ⟨x, -, rfl⟩ | rfl⟩ := exec_next h
  · rw [finish_stepNo, hk.stepNo]
  · exact takeException_stepNo x s
  · exact skip_stepNo _ s

theorem tick_exec (i : Instr) (s : State) : tick (exec i s) = match exec i s with
    | .next t => .next { t with stepNo := s.stepNo + 1 }
    | .fault f => .fault f
    | .refused r => .refused r := by
  cases h : exec i s with
  | next t => rw [tick, exec_stepNo h]
  | fault f => rfl
  | refused r => rfl

/-- Settles O10: the bytes of the instruction are the first of those fetched. -/
theorem stepRunsDecoded : Obligations.StepRunsDecoded := by
  intro s c i hh hp hj hfetch hbytes hread hwrap hdec
  obtain ⟨l, hl⟩ := fetchBytes_of_canFetch (s := s) (n := c.size) (by cases c <;> simp [Code.size]) hfetch
  have hpre : ((List.range c.size).map fun k => s.byteAt (s.pc + BitVec.ofNat 32 k)) =
      c.bytes s.cfg.instrBigEndian := by
    have hlen : (c.bytes s.cfg.instrBigEndian).length = c.size := by
      cases c <;> cases s.cfg.instrBigEndian <;> rfl
    refine List.ext_getElem (by simp [hlen]) fun k hk hk' => ?_
    have := hbytes k (by simpa using hk)
    rw [List.getElem?_eq_getElem hk', Option.some.injEq] at this
    rw [this, List.getElem_map, List.getElem_range]
  have hcode : fetch s = some c := by
    rw [fetch, hl, hpre, readCode_append hread]
    rfl
  have hw : wraps s c = false := by
    rw [← Bool.not_eq_true, wraps_eq]
    omega
  rw [step_fetches hh hp hj, hcode]
  simp only [hw, hdec, Bool.false_eq_true, if_false]
  exact tick_exec i s

/-- Settles O12: a fetch of fewer bytes than the instruction has is a prefetch abort. -/
theorem stepWithoutInstruction : Obligations.StepWithoutInstruction := by
  intro s
  refine ⟨fun h => if_pos h, fun hh hp => ?_⟩
  intro at' aborts
  have habort : s.cpsr.j = false → readCode s.cpsr.t s.cfg.instrBigEndian (fetchBytes s) = none → aborts :=
    fun hj h => step_raises (by rw [step_fetches hh hp hj, fetch_eq_none h])
  refine ⟨fun hj => ?_, fun hj => ⟨fun ht ⟨k, hk, hc⟩ => habort hj ?_, fun ht ⟨k, hk, hc⟩ => habort hj ?_,
    fun ht hw ⟨k, hk, hc⟩ => habort hj ?_, fun c hf => ⟨fun hw => ?_, fun hw hd => ?_⟩⟩⟩
  · rw [step, if_neg hh, hp]
    simp only [hj]
    rfl
  · rw [ht]
    exact readCode_arm_short (lt_of_le_of_lt (length_fetchBytes_le hc) hk)
  · exact readCode_short (lt_of_le_of_lt (length_fetchBytes_le hc) hk)
  · rw [ht]
    refine readCode_wide_short (lt_of_le_of_lt (length_fetchBytes_le hc) hk) fun b0 b1 r h => ?_
    obtain ⟨rfl, rfl⟩ := fetchBytes_head h
    exact hw
  · rw [step_fetches hh hp hj, hf]
    exact if_pos ((wraps_eq s c).2 hw)
  · rw [step_fetches hh hp hj, hf]
    simp only [hd]
    exact if_neg (mt (wraps_eq s c).1 (by omega))

/-! ### Reset and single words -/

/-- Settles O55: each field by the definition of the reset state. -/
theorem resetState : Obligations.ResetState := by
  intro c s
  refine ⟨rfl, rfl, rfl, rfl, fun h => h, fun h => ?_, rfl, fun h => ?_, rfl, rfl, rfl⟩
  · exact (congrArg (· && c.thumbExceptionEntry) h).trans (Bool.true_and _)
  · exact (congrArg (· && c.dataBigEndianAtReset) h).trans (Bool.true_and _)

/-- Settles O56: the decoder evaluated at each word. -/
theorem decodeWords : Obligations.DecodeWords := by
  unfold Obligations.DecodeWords
  decide +kernel

end Sys2Proof.Machine
end

section
/-! SUPPORT and PROOFS. Taking an exception and returning from one (spec 60_exceptions sections 3, 4 and 6,
40_add_subtract section 4). -/

namespace Sys2Proof.Machine

open Sys2Proof

/-! ### Instructions that execute where they stand -/

theorem misplaced_arm {fm : Form} {s : State} (h : fm.enc.isThumb = false) : misplaced fm s = none := by
  simp [misplaced, h]

theorem misplaced_lastOnly {fm : Form} {s : State} (h : fm.place = .lastOnly) (he : endsBlock s = true) :
    misplaced fm s = none := by
  simp [misplaced, h, (endsBlock_iff s).1 he]

theorem misplaced_no_block {fm : Form} {s : State} (h : s.cpsr.it = 0#8) : misplaced fm s = none := by
  simp [misplaced, h]

/-- An instruction without a condition of its own that is available, stands where it may and executes. -/
theorem perform_of_runs {fm : Form} {s : State} {wide : Bool} (k : Except Stop State) (ho : fm.own = none)
    (hf : fm.feature = true) (hm : misplaced fm s = none) (hr : runs fm.enc wide s = true) :
    perform fm s k = match k with
      | .ok s' => .next (finish fm s')
      | .error (.raise e) => raiseExc e s
      | .error (.refuse r) => .refused r := by
  obtain ⟨c, hc, hh⟩ := condition_of_runs fm wide s ho hr
  refine perform_runs fm s k c ?_ hm hc hh
  simp [available, hf, isThumb_of_runs _ _ _ hr]

/-! ### Exception entry -/

/-- The SPSR of another mode is as before. -/
theorem setSpsr_others (s : State) (v : Word) :
    (s.cpsr.mode ≠ .fiq → (s.setSpsr v).spsrFiq = s.spsrFiq) ∧
      (s.cpsr.mode ≠ .irq → (s.setSpsr v).spsrIrq = s.spsrIrq) ∧
      (s.cpsr.mode ≠ .svc → (s.setSpsr v).spsrSvc = s.spsrSvc) ∧
      (s.cpsr.mode ≠ .abt → (s.setSpsr v).spsrAbt = s.spsrAbt) ∧
      (s.cpsr.mode ≠ .und → (s.setSpsr v).spsrUnd = s.spsrUnd) := by
  unfold State.setSpsr
  cases s.cpsr.mode <;> simp

theorem takeException_otherSpsrs (e : Exc) (s : State) :
    (e.mode ≠ .fiq → (takeException e s).spsrFiq = s.spsrFiq) ∧
      (e.mode ≠ .irq → (takeException e s).spsrIrq = s.spsrIrq) ∧
      (e.mode ≠ .svc → (takeException e s).spsrSvc = s.spsrSvc) ∧
      (e.mode ≠ .abt → (takeException e s).spsrAbt = s.spsrAbt) ∧
      (e.mode ≠ .und → (takeException e s).spsrUnd = s.spsrUnd) := by
  simpa [takeException, Cpsr.onEntry] using setSpsr_others { s with cpsr := s.cpsr.onEntry s.cfg e } s.cpsr.toWord

theorem onEntry_eq (p : Cpsr) (c : Config) (e : Exc) : p.onEntry c e =
    { p with
      mode := e.mode, i := true, f := p.f || e.masksFiq, it := 0#8, j := false,
      a := if c.haveV6 && e.masksAbort then true else p.a,
      t := c.haveThumb && c.thumbExceptionEntry,
      e := if c.haveV6 then c.dataBigEndianAtReset else p.e } := by
  unfold Cpsr.onEntry
  congr 1
  cases p.a <;> cases c.haveV6 && e.masksAbort <;> rfl

/-- Settles O48: the table of each exception by the definition, the registers as one write of the link register. -/
theorem exceptionEntry : Obligations.ExceptionEntry := by
  intro x s
  have hregs : ∀ q, (takeException x s).regs.get q = written x.mode s.regs [(14#4, s.pc + x.lrOffset s.cpsr.t)] q :=
    fun q => by rw [written_cons, written_nil, takeException_regs]
  have hcpsr := (takeException_cpsr x s).trans (onEntry_eq s.cpsr s.cfg x)
  have hlr : ∀ a b : Nat, (if s.cpsr.t then BitVec.ofNat 32 b else BitVec.ofNat 32 a) =
      BitVec.ofNat 32 (if s.cpsr.t then b else a) := fun a b => (apply_ite (BitVec.ofNat 32) _ _ _).symm
  have hrest := takeException_otherSpsrs x s
  refine ⟨takeException_spsr x s, ?_, ?_, ?_, takeException_mem x s, takeException_ac x s, takeException_cfg x s,
    takeException_draws x s, takeException_stepNo x s, ?_⟩
  · cases x <;> rfl
  · rw [hcpsr]
    cases x <;> rfl
  · cases x <;> simpa only [Exc.lrOffset, Exc.mode, ← hlr, ite_self] using hregs
  · cases x <;> exact hrest

/-! ### Exception return -/

/-- The GE field of a status word, as a number. -/
theorem toNat_ge_eq (w : Word) : w.extractLsb' 16 4 = BitVec.ofNat 4 (w.toNat / 65536) := by
  apply BitVec.eq_of_toNat_eq
  rw [BitVec.extractLsb'_toNat, BitVec.toNat_ofNat, Nat.shiftRight_eq_div_pow]

/-- The CPSR an SPSR restores, with the fields as numbers. -/
theorem restored_eq (c : Config) (w : Word) (m : Mode) : Cpsr.restored c w m =
    { n := w.getLsbD 31, z := w.getLsbD 30, c := w.getLsbD 29, v := w.getLsbD 28,
      q := c.haveV5E && w.getLsbD 27,
      it := if (c.haveThumb && w.getLsbD 5) = true ∧ c.haveT2 = true then
        BitVec.ofNat 8 (w.toNat / 1024 % 64 * 4 + w.toNat / 2 ^ 25 % 4) else 0#8,
      j := false, ge := if c.haveV6 then BitVec.ofNat 4 (w.toNat / 65536) else 0#4,
      e := c.haveV6 && w.getLsbD 9, a := c.haveV6 && w.getLsbD 8, i := w.getLsbD 7,
      f := w.getLsbD 6, t := c.haveThumb && w.getLsbD 5, mode := m } := by
  have hit : w.extractLsb' 10 6 ++ w.extractLsb' 25 2 =
      BitVec.ofNat 8 (w.toNat / 1024 % 64 * 4 + w.toNat / 2 ^ 25 % 4) := by
    apply BitVec.eq_of_toNat_eq
    rw [toNat_append', BitVec.extractLsb'_toNat, BitVec.extractLsb'_toNat, BitVec.toNat_ofNat,
      Nat.shiftRight_eq_div_pow, Nat.shiftRight_eq_div_pow]
    omega
  rw [Cpsr.restored, hit, toNat_ge_eq]
  congr 1
  refine if_congr ?_ rfl rfl
  cases c.haveT2 <;> cases c.haveThumb <;> simp

theorem exceptionReturn_noSpsr {s : State} (h : s.spsr = none) (imm : Word) :
    exceptionReturn s imm = .error (.refuse .noSpsr) := by
  rw [exceptionReturn, h]

theorem exceptionReturn_badState {s : State} {w : Word} (h : s.spsr = some w)
    (hb : Mode.ofBits (w.extractLsb' 0 5) = none ∨ w.getLsbD 24 = true) (imm : Word) :
    exceptionReturn s imm = .error (.refuse .badReturnState) := by
  rw [exceptionReturn, h]
  dsimp only
  split
  · rfl
  · next m hm => rw [if_pos (hb.resolve_left (by simp [hm]))]

/-- A return to a state that exists. -/
theorem exceptionReturn_good {s : State} {w : Word} {m : Mode} (h : s.spsr = some w)
    (hm : Mode.ofBits (w.extractLsb' 0 5) = some m) (hj : w.getLsbD 24 = false) (imm : Word) :
    exceptionReturn s imm =
      if s.cfg.haveThumb && w.getLsbD 5 then
        .ok { s with cpsr := Cpsr.restored s.cfg w m, pc := (s.reg 14#4 - imm) &&& 0xFFFFFFFE#32 }
      else if (s.reg 14#4 - imm).toNat % 4 = 0 then
        .ok { s with cpsr := Cpsr.restored s.cfg w m, pc := s.reg 14#4 - imm }
      else .error (.refuse .misalignedReturn) := by
  rw [exceptionReturn, h]
  simp only [hm, hj, extract_two_eq_zero]
  rfl

theorem becomes_cpsr_pc (s : State) (p : Cpsr) (pc : Word) :
    Becomes s { s with cpsr := p, pc := pc } [] p pc s.ac s.draws s.byteAt :=
  ⟨fun _ => rfl, rfl, rfl, rfl, rfl, fun _ => rfl, rfl, rfl, rfl, rfl, rfl, rfl, rfl⟩

/-- What an instruction does that is an exception return. -/
def ReturnsWith (i : Instr) (s : State) (imm : Word) : Prop :=
  exec i s = match exceptionReturn s imm with
    | .ok u => .next u
    | .error (.raise e) => raiseExc e s
    | .error (.refuse r) => .refused r

theorem subs_arm_returns (c : Cond) (rot : BitVec 4) (i8 : BitVec 8) (s : State) (hr : runs (.a32 c) true s = true) :
    ReturnsWith (.sub (.a32 c) true 15#4 14#4 (.immA rot i8)) s (armExpandImm rot i8 s.cpsr.c).1 :=
  perform_of_runs (fm := { form4 s.cfg (.a32 c) true with flow := .ret }) _ rfl rfl (misplaced_arm rfl) hr

theorem subs_thumb_returns (i8 : BitVec 8) (s : State) (hr : runs .thumb true s = true) (he : endsBlock s = true) :
    ReturnsWith (.subsPcLr i8) s (i8.setWidth 32) := by
  have ht2 : s.cfg.haveT2 = true := by
    simp only [runs, Bool.and_eq_true] at hr
    simpa using hr.1.2
  exact perform_of_runs (fm := { form4 s.cfg .thumb true with place := .lastOnly, flow := .ret }) _ rfl
    (by simp [form4, ht2]) (misplaced_lastOnly rfl he) hr

/-- Settles O47: both encodings are the return of `exceptionReturn`. -/
theorem exceptionReturnResults : Obligations.ExceptionReturnResults := by
  intro c rot i8 s arm thumb returns
  have hret : ∀ i imm, ReturnsWith i s imm → returns i imm := fun i imm hx => by
    refine ⟨fun hm => ?_, fun w hw => ⟨fun hb => ?_, fun m hm hj => ?_⟩⟩
    · rw [hx, exceptionReturn_noSpsr ((State.spsr_eq_none s).2 hm)]
    · rw [hx, exceptionReturn_badState hw hb]
    · intro dest t
      have hgood := exceptionReturn_good hw hm hj imm
      refine ⟨fun ht hal => ?_, fun hok => ?_⟩
      · rw [hx, hgood, if_neg (by simpa [t] using ht), if_neg hal]
      · rw [← restored_eq]
        cases ht : t with
        | true =>
          refine ⟨_, by rw [hx, hgood, if_pos ht], ?_⟩
          rw [if_pos rfl, ← toNat_and_even, BitVec.ofNat_toNat, BitVec.setWidth_eq]
          exact becomes_cpsr_pc s _ _
        | false =>
          have hal : dest.toNat % 4 = 0 := hok.resolve_left (by simp [ht])
          refine ⟨_, by rw [hx, hgood, if_neg (by simpa [t] using ht), if_pos hal], ?_⟩
          exact becomes_cpsr_pc s _ _
  refine ⟨fun hr => hret _ _ (subs_arm_returns c rot i8 s hr), fun hr he => ?_⟩
  rw [BitVec.ofNat_toNat]
  exact hret _ _ (subs_thumb_returns i8 s hr he)

/-! ### The return resumes the interrupted program -/

theorem condHolds_onEntry (k : Cond) (p : Cpsr) (c : Config) (e : Exc) :
    condHolds k (p.onEntry c e) = condHolds k p := rfl

/-- Restoring the word of a CPSR that meets the invariant gives that CPSR: a field the processor lacks was zero. -/
theorem restored_toWord {c : Config} {p : Cpsr} (h : CpsrInv c p) : Cpsr.restored c p.toWord p.mode = p := by
  obtain ⟨h31, h30, h29, h28, h27, -, h9, h8, h7, h6, h5⟩ := p.toWord_bits
  obtain ⟨hge, hit⟩ := p.toWord_fields
  obtain ⟨harm, hj, hth, ht2, hq, hv6⟩ := h
  unfold Cpsr.restored
  rw [h31, h30, h29, h28, h27, h9, h8, h7, h6, h5, hge, hit]
  have eT : (c.haveThumb && p.t) = p.t := by
    cases ht : p.t with
    | false => exact Bool.and_false _
    | true => rw [hth ht]; rfl
  have eIt : (if c.haveT2 && c.haveThumb && p.t then p.it else 0#8) = p.it := by
    rw [Bool.and_assoc, eT]
    cases h2 : c.haveT2 with
    | false => exact (ht2 h2).symm
    | true =>
      cases ht : p.t with
      | false => exact (harm ht).symm
      | true => rfl
  have eQ : (c.haveV5E && p.q) = p.q := by
    cases h5 : c.haveV5E with
    | false => rw [hq h5]; rfl
    | true => rfl
  have eV6 : (if c.haveV6 then p.ge else 0#4) = p.ge ∧ (c.haveV6 && p.e) = p.e ∧ (c.haveV6 && p.a) = p.a := by
    cases h6 : c.haveV6 with
    | false =>
      obtain ⟨h1, h2, h3⟩ := hv6 h6
      rw [h1, h2, h3]
      exact ⟨rfl, rfl, rfl⟩
    | true => exact ⟨rfl, rfl, rfl⟩
  obtain ⟨eGe, eE, eA⟩ := eV6
  rw [eT, eIt, eQ, eGe, eE, eA, ← hj]

/-- The link register of an exception entry, read in the mode entered. -/
theorem takeException_lr (x : Exc) (s : State) : (takeException x s).reg 14#4 = s.pc + x.lrOffset s.cpsr.t := by
  have hr := takeException_regs x s (lrOf x.mode)
  have hp : physReg (takeException x s).cpsr.mode 14#4 = some (lrOf x.mode) := by
    rw [takeException_cpsr]
    rfl
  rw [State.reg, hp]
  exact hr.trans (if_pos rfl)

/-- The return address of the aborts and interrupts does not depend on the instruction set. -/
theorem lrOffset_eq {x : Exc} {n : Nat} (t : Bool)
    (hn : n = match x with | .dataAbort _ _ _ => 8 | .asyncAbort => 8 | _ => 4)
    (hu : ∀ r b, x ≠ .undefinedInstruction r b) (hs : x ≠ .supervisorCall) : x.lrOffset t = BitVec.ofNat 32 n := by
  subst hn
  cases x with
  | undefinedInstruction r b => exact absurd rfl (hu r b)
  | supervisorCall => exact absurd rfl hs
  | _ => rfl

/-- An exception return from the state an exception entry leaves, at the address its table names: the CPSR is the one
saved, the PC the one interrupted. -/
theorem exceptionReturn_takeException {x : Exc} {s : State} (hinv : RunInv s) :
    exceptionReturn (takeException x s) (x.lrOffset s.cpsr.t) =
      .ok { takeException x s with cpsr := s.cpsr, pc := s.pc } := by
  obtain ⟨-, -, hpc, hp⟩ := (runInv_iff s).1 hinv
  obtain ⟨-, -, -, -, -, hj, -, -, -, -, ht⟩ := s.cpsr.toWord_bits
  have hT : (s.cfg.haveThumb && s.cpsr.t) = s.cpsr.t := by
    cases h : s.cpsr.t with
    | false => exact Bool.and_false _
    | true => rw [hp.thumb h]; rfl
  have hdest : (takeException x s).reg 14#4 - x.lrOffset s.cpsr.t = s.pc := by
    rw [takeException_lr, BitVec.add_sub_cancel]
  rw [exceptionReturn_good (takeException_spsr x s) (by rw [Cpsr.toWord_mode, Mode.ofBits_bits]) (hj.trans hp.j),
    takeException_cfg, restored_toWord hp, hdest, ht, hT]
  rw [pcAligned_iff] at hpc
  cases h : s.cpsr.t with
  | false => rw [if_neg (by decide), if_pos (by simpa [h] using hpc), ← takeException_cfg x s]
  | true =>
    have heven : s.pc &&& 0xFFFFFFFE#32 = s.pc := by
      apply BitVec.eq_of_toNat_eq
      rw [h, if_pos rfl] at hpc
      rw [toNat_and_even]
      omega
    rw [if_pos rfl, heven, ← takeException_cfg x s]

/-- Settles O50: the SPSR holds the CPSR, the link register the address, and the return restores both. -/
theorem returnResumesProgram : Obligations.ReturnResumesProgram := by
  intro c i8 x s hinv hu hsv hte hc hi8
  have hr : runs (.a32 c) true (takeException x s) = true := by
    have ht : (takeException x s).cpsr.t = false := by
      rw [takeException_cpsr]
      exact (congrArg (s.cfg.haveThumb && ·) hte).trans (Bool.and_false _)
    rw [runs, ht, takeException_cpsr, condHolds_onEntry, hc]
    rfl
  have himm : (armExpandImm 0#4 i8 (takeException x s).cpsr.c).1 = x.lrOffset s.cpsr.t := by
    rw [lrOffset_eq _ hi8 hu hsv, BitVec.ofNat_toNat]
    rfl
  have hx := subs_arm_returns c 0#4 i8 (takeException x s) hr
  rw [ReturnsWith, himm, exceptionReturn_takeException hinv] at hx
  refine ⟨_, hx, rfl, rfl, takeException_mem x s, takeException_ac x s, fun q hq => ?_⟩
  refine (takeException_regs x s q).trans (if_neg fun h => hq ?_)
  have hq' : lrOf x.mode = q := Option.some.inj h
  rw [← hq']
  cases x <;> simp [lrOf, Exc.mode]

end Sys2Proof.Machine
end

section
/-! SUPPORT and PROOFS. If-Then and branches (spec 45_branch_it). -/

namespace Sys2Proof.Machine

open Sys2Proof

/-! ### IT -/

/-- The condition of each instruction of an IT block: a finite table. -/
theorem itAdvance_condition : ∀ firstcond mask : BitVec 4, ∀ k < 4, k = 0 ∨ mask.toNat % 2 ^ (4 - k) ≠ 0 →
    (Nat.repeat itAdvance k (firstcond ++ mask)).extractLsb' 4 4 = firstcond.extractLsb' 1 3 ++
      (if k = 0 then firstcond.extractLsb' 0 1 else BitVec.ofBool (mask.getLsbD (4 - k))) := by
  decide +kernel

/-- The IT state after the last instruction of a block: a finite table. -/
theorem itAdvance_end : ∀ firstcond mask : BitVec 4, ∀ k < 5, k ≠ 0 → mask.toNat % 2 ^ (4 - k) = 0 →
    Nat.repeat itAdvance k (firstcond ++ mask) = 0#8 := by
  decide +kernel

theorem runs_no_block {s : State} {wide : Bool} (ht : s.cpsr.t = true) (hit : s.cpsr.it = 0#8)
    (h2 : s.cfg.haveT2 = true) : runs .thumb wide s = true := by
  simp [runs, itPasses, ht, hit, h2]

/-- IT's form and effect. -/
theorem exec_it (firstcond mask : BitVec 4) (s : State) :
    exec (.it firstcond mask) s = perform (formOf (.it firstcond mask) s.cfg.haveT2) s
      (checked [(firstcond == 15#4, .unpredictableItCondition),
          (firstcond == 14#4 && !(mask == 1#4 || mask == 2#4 || mask == 4#4 || mask == 8#4), .itAlWithElse)]
        (.ok { s with cpsr := { s.cpsr with it := firstcond ++ mask } })) := rfl

/-- Settles O37: the refusals in the order of the checks, the conditions a finite table. -/
theorem itResults : Obligations.ItResults := by
  intro firstcond mask s
  refine ⟨fun h2 => ?_, fun h2 ht => ⟨fun hit => ?_, ?_⟩, fun _ k hk =>
    ⟨itAdvance_condition firstcond mask k hk, itAdvance_end firstcond mask k (by omega),
      itAdvance_end firstcond mask 4 (by decide) (by decide) (Nat.mod_one _)⟩⟩
  · exact perform_unavailable _ _ _ (by simp [available, h2])
  · refine perform_misplaced _ _ _ .itInsideIt (by simp [available, h2, ht, Enc.isThumb]) ?_
    simp [misplaced, hit, Enc.isThumb]
  · have hrun : s.cpsr.it = 0#8 → exec (.it firstcond mask) s = _ := fun hit =>
      (exec_it firstcond mask s).trans (perform_of_runs (wide := true) _ rfl h2 (misplaced_no_block hit)
        (runs_no_block ht hit h2))
    have hmask : mask ∈ [1#4, 2#4, 4#4, 8#4] ↔ (mask == 1#4 || mask == 2#4 || mask == 4#4 || mask == 8#4) = true := by
      simp [or_assoc]
    refine ⟨fun hit hc => ?_, fun hit hc hm => ?_, fun hit hc hm =>
      ⟨{ s with cpsr := { s.cpsr with it := firstcond ++ mask }, pc := s.pc + 2#32 }, ?_, becomes_cpsr_pc s _ _⟩⟩
    · rw [hrun hit]
      simp [checked, hc]
    · rw [hmask, Bool.not_eq_true] at hm
      rw [hrun hit]
      simp [checked, hc, hm]
    · have hc14 : (firstcond == 14#4 && !(mask == 1#4 || mask == 2#4 || mask == 4#4 || mask == 8#4)) = false := by
        by_cases h14 : firstcond = 14#4
        · rw [hmask.1 (hm h14)]
          exact Bool.and_false _
        · simp [h14]
      rw [hrun hit, hc14]
      simp only [checked, beq_eq_false_iff_ne.2 hc]
      rfl

/-! ### Branches that complete -/

theorem misplaced_branch {fm : Form} {s : State} (hp : fm.place = .lastOnly)
    (he : fm.enc.isThumb = true → endsBlock s = true) : misplaced fm s = none := by
  cases h : fm.enc.isThumb with
  | false => exact misplaced_arm h
  | true => exact misplaced_lastOnly hp (he h)

/-- The end of a branch: only the IT state moves on. -/
theorem becomes_finish_branch {fm : Form} {s u : State} {w : List (Reg × Word)} {t : Bool} {pc : Word}
    (hf : fm.flow = .branch) (hu : Becomes s u w { s.cpsr with t := t } pc s.ac s.draws s.byteAt) :
    Becomes s (finish fm u) w { s.cpsr with t := t, it := itNext fm.enc s } pc s.ac s.draws s.byteAt := by
  obtain ⟨hr, hp, hpc, hac, hd, hb, hc, h1, h2, h3, h4, h5, hn⟩ := hu
  have hfin : finish fm u = { u with cpsr := { s.cpsr with t := t, it := itNext fm.enc s } } := by
    rw [finish, hf, itNext_eq]
    simp only [advanceIt]
    split
    · rw [hp]
    · have hp' : u.cpsr = { s.cpsr with t := t, it := s.cpsr.it } := hp
      rw [← hp']
  rw [hfin]
  exact ⟨hr, rfl, hpc, hac, hd, hb, hc, h1, h2, h3, h4, h5, hn⟩

/-- A branch that executes and whose effect completes. -/
theorem branches_of_effect {i : Instr} {s u : State} {f wide t : Bool} {k : Except Stop State}
    {w : List (Reg × Word)} {pc : Word} (hf : f = true) (hm : misplaced (formOf i f) s = none)
    (hr : runs (encodingOf i) wide s = true) (hk : k = .ok u)
    (hu : Becomes s u w { s.cpsr with t := t } pc s.ac s.draws s.byteAt)
    (hx : exec i s = perform (formOf i f) s k) (hw : flowOf i = .branch := by rfl) (ho : ownOf i = none := by rfl) :
    Branches i s w t pc := by
  subst hk
  exact ⟨_, hx.trans (perform_of_runs (.ok u) ho hf hm hr), becomes_finish_branch hw hu⟩

end Sys2Proof.Machine
end

section
/-! SUPPORT and PROOFS. Branches to a label (spec 45_branch_it section 3): targets as integers. -/

namespace Sys2Proof.Machine

open Sys2Proof

/-! ### Targets as integers -/

theorem toInt_append' {n m : Nat} (hn : n ≠ 0) (x : BitVec n) (y : BitVec m) :
    (x ++ y).toInt = 2 ^ m * x.toInt + y.toNat := by
  rw [BitVec.toInt_append, if_neg (by simpa using hn)]

/-- An offset added to an address, as integers. -/
theorem add_signExtend_eq {n : Nat} (a : Word) (x : BitVec n) {p q : Int} (ha : a = BitVec.ofInt 32 p)
    (hx : x.toInt = q) : a + x.signExtend 32 = BitVec.ofInt 32 (p + q) := by
  rw [BitVec.ofInt_add, ← ha, ← hx]
  rfl

theorem add_ofNat_eq_ofInt (a : Word) (k : Nat) : a + BitVec.ofNat 32 k = BitVec.ofInt 32 ((a.toNat : Int) + k) := by
  rw [BitVec.ofInt_add, BitVec.ofInt_natCast, BitVec.ofInt_natCast, BitVec.ofNat_toNat, BitVec.setWidth_eq]

theorem toInt_ofBool (b : Bool) : (BitVec.ofBool b).toInt = if b then -1 else 0 := by cases b <;> rfl

theorem toNat_iBit (j sg : Bool) : (iBit j sg).toNat = if j = sg then 1 else 0 := by cases j <;> cases sg <;> rfl

theorem armTarget_eq (s : State) (i24 : BitVec 24) :
    s.pc + 8#32 + offsetA i24 = BitVec.ofInt 32 ((s.pc.toNat : Int) + (8 + 4 * i24.toInt)) := by
  rw [← Int.add_assoc]
  exact add_signExtend_eq _ _ (add_ofNat_eq_ofInt _ _) BitVec.toInt_append_zero

/-- The upper part of a T4, BL or BLX offset. -/
def highOffset (sg j1 j2 : Bool) (i10 : BitVec 10) : Int :=
  (if sg then -16777216 else 0) + (if j1 = sg then 8388608 else 0) + (if j2 = sg then 4194304 else 0) +
    4096 * (i10.toNat : Int)

theorem toInt_high (sg j1 j2 : Bool) (i10 : BitVec 10) :
    4096 * (BitVec.ofBool sg ++ iBit j1 sg ++ iBit j2 sg ++ i10).toInt = highOffset sg j1 j2 i10 := by
  rw [toInt_append' (by decide), toInt_append' (by decide), toInt_append' (by decide), toInt_ofBool, toNat_iBit,
    toNat_iBit, highOffset]
  split_ifs <;> push_cast <;> omega

theorem t4Target_eq (s : State) (sg j1 j2 : Bool) (i10 : BitVec 10) (i11 : BitVec 11) :
    s.pc + 4#32 + offsetT4 sg j1 j2 i10 i11 =
      BitVec.ofInt 32 ((s.pc.toNat : Int) + (4 + highOffset sg j1 j2 i10 + 2 * i11.toNat)) := by
  rw [Int.add_assoc, ← Int.add_assoc, ← toInt_high]
  refine add_signExtend_eq _ _ (add_ofNat_eq_ofInt _ _) ?_
  rw [BitVec.toInt_append_zero, toInt_append' (by decide)]
  omega

theorem t3Target_eq (s : State) (sg j1 j2 : Bool) (i6 : BitVec 6) (i11 : BitVec 11) :
    s.pc + 4#32 + offsetT3 sg j1 j2 i6 i11 =
      BitVec.ofInt 32 ((s.pc.toNat : Int) + (4 + (if sg then -1048576 else 0) + 524288 * j2.toNat +
        262144 * j1.toNat + 4096 * i6.toNat + 2 * i11.toNat)) := by
  have h : (BitVec.ofBool sg ++ BitVec.ofBool j2 ++ BitVec.ofBool j1 ++ i6 ++ i11 ++ 0#1).toInt =
      (if sg then -1048576 else 0) + 524288 * j2.toNat + 262144 * j1.toNat + 4096 * i6.toNat + 2 * i11.toNat := by
    rw [BitVec.toInt_append_zero, toInt_append' (by decide), toInt_append' (by decide), toInt_append' (by decide),
      toInt_append' (by decide), toInt_ofBool, BitVec.toNat_ofBool, BitVec.toNat_ofBool]
    cases sg <;> simp <;> omega
  rw [offsetT3, add_signExtend_eq _ _ (add_ofNat_eq_ofInt _ _) h]
  congr 1
  omega

theorem blxArmTarget_eq (s : State) (h : Bool) (i24 : BitVec 24) :
    s.pc + 8#32 + (i24 ++ BitVec.ofBool h ++ 0#1).signExtend 32 =
      BitVec.ofInt 32 ((s.pc.toNat : Int) + (8 + 4 * i24.toInt + 2 * h.toNat)) := by
  rw [Int.add_assoc, ← Int.add_assoc]
  refine add_signExtend_eq _ _ (add_ofNat_eq_ofInt _ _) ?_
  rw [BitVec.toInt_append_zero, toInt_append' (by decide), BitVec.toNat_ofBool]
  omega

theorem blxThumbTarget_eq (s : State) (sg j1 j2 : Bool) (i10 i10l : BitVec 10) :
    align4 (s.pc + 4#32) + (BitVec.ofBool sg ++ iBit j1 sg ++ iBit j2 sg ++ i10 ++ i10l ++ 0#2).signExtend 32 =
      BitVec.ofInt 32 ((((s.pc.toNat : Int) + 4) / 4 * 4) + highOffset sg j1 j2 i10 + 4 * i10l.toNat) := by
  have ha : align4 (s.pc + 4#32) = BitVec.ofInt 32 (((s.pc.toNat : Int) + 4) / 4 * 4) := by
    have hn : ((s.pc.toNat : Int) + 4) / 4 * 4 = ((s.pc.toNat + 4) / 4 * 4 : Nat) := by push_cast; rfl
    rw [hn, BitVec.ofInt_natCast]
    apply BitVec.eq_of_toNat_eq
    rw [toNat_align4, BitVec.toNat_add, BitVec.toNat_ofNat, BitVec.toNat_ofNat]
    omega
  rw [Int.add_assoc, ← toInt_high]
  refine add_signExtend_eq _ _ ha ?_
  rw [BitVec.toInt_append_zero, toInt_append' (by decide)]
  omega

/-! ### Jumps -/

theorem becomes_refl (s : State) : Becomes s s [] s.cpsr s.pc s.ac s.draws s.byteAt := becomes_cpsr_pc s s.cpsr s.pc

theorem becomes_setReg_only (s : State) (i : Reg) (v : Word) :
    Becomes s (s.setReg i v) [(i, v)] s.cpsr s.pc s.ac s.draws s.byteAt :=
  becomes_setReg_withFlags s i v false s.cpsr

/-- After register writes: the PC, with T left as it is. -/
theorem becomes_pc {s v : State} {w : List (Reg × Word)} (h : Becomes s v w s.cpsr s.pc s.ac s.draws s.byteAt)
    (a : Word) :
    Becomes s { v with pc := a } w s.cpsr a s.ac s.draws s.byteAt := by
  obtain ⟨hr, hp, -, hrest⟩ := h
  exact ⟨hr, hp, rfl, hrest⟩

/-- The same, with T named. -/
theorem becomes_pc_t {s v : State} {t : Bool} {w : List (Reg × Word)} (ht : s.cpsr.t = t)
    (h : Becomes s v w s.cpsr s.pc s.ac s.draws s.byteAt) (a : Word) :
    Becomes s { v with pc := a } w { s.cpsr with t := t } a s.ac s.draws s.byteAt := by
  subst ht
  exact becomes_pc h a

/-- After register writes: the PC and T. -/
theorem becomes_jump {s v : State} {w : List (Reg × Word)} (h : Becomes s v w s.cpsr s.pc s.ac s.draws s.byteAt)
    (t : Bool) (a : Word) :
    Becomes s { v with cpsr := { v.cpsr with t := t }, pc := a } w { s.cpsr with t := t } a s.ac s.draws s.byteAt := by
  obtain ⟨hr, hp, -, hrest⟩ := h
  exact ⟨hr, by rw [hp], rfl, hrest⟩

theorem branchWritePc_arm {s : State} {a : Word} (ht : s.cpsr.t = false) (ha : a.toNat % 4 = 0) :
    branchWritePc s a = .ok { s with pc := a } := by
  rw [branchWritePc, if_neg (by simp [ht]), if_pos ((extract_two_eq_zero a).2 ha)]

theorem branchWritePc_thumb {s : State} {a : Word} (ht : s.cpsr.t = true) (ha : a.toNat % 2 = 0) :
    branchWritePc s a = .ok { s with pc := a } := by
  have he : a &&& 0xFFFFFFFE#32 = a := BitVec.eq_of_toNat_eq (by rw [toNat_and_even]; omega)
  rw [branchWritePc, if_pos ht, he]

/-- A branch written by `BranchWritePC` to an address that is aligned for the instruction set. -/
theorem branches_of_branchWritePc {i : Instr} {s v : State} {f wide t : Bool} {w : List (Reg × Word)} {a a' : Word}
    (hv : Becomes s v w s.cpsr s.pc s.ac s.draws s.byteAt) (hr : runs (encodingOf i) wide s = true) (hf : f = true)
    (hm : misplaced (formOf i f) s = none) (ht : s.cpsr.t = t) (ha : a.toNat % (if t then 2 else 4) = 0) (ha' : a = a')
    (hx : exec i s = perform (formOf i f) s (branchWritePc v a)) (hw : flowOf i = .branch := by rfl)
    (ho : ownOf i = none := by rfl) : Branches i s w t a' := by
  subst ha'
  have hvt : v.cpsr.t = t := by rw [hv.2.1, ht]
  refine branches_of_effect hf hm hr (u := { v with pc := a }) ?_ (becomes_pc_t ht hv a) hx hw ho
  cases t with
  | false => exact branchWritePc_arm hvt ha
  | true => exact branchWritePc_thumb hvt ha

/-! ### Branches to a label -/

theorem becomes_linkedJump (s : State) (t : Bool) (a : Word) :
    Becomes s (linkedJump s t a) [(14#4, s.linkValue 4#32)] { s.cpsr with t := t } a s.ac s.draws s.byteAt :=
  becomes_jump (becomes_setReg_only s _ _) t a

theorem armTarget_mod {s : State} (ht : s.cpsr.t = false) (hpc : pcAligned s = true) (i24 : BitVec 24) :
    (s.pc + 8#32 + offsetA i24).toNat % 4 = 0 := by
  have hm := toNat_signExtend_append_mod 2 i24 (by decide)
  rw [pcAligned_iff, ht, if_neg (by decide)] at hpc
  change ((offsetA i24).toNat % 2 ^ 2 = 0) at hm
  rw [BitVec.toNat_add, BitVec.toNat_add, BitVec.toNat_ofNat]
  omega

/-- An even offset from an aligned PC, in Thumb state. -/
theorem thumbTarget_mod {n : Nat} {s : State} (ht : s.cpsr.t = true) (hpc : pcAligned s = true) (x : BitVec n) :
    (s.pc + 4#32 + (x ++ 0#1).signExtend 32).toNat % 2 = 0 := by
  have hm := toNat_signExtend_append_mod 1 x (by decide)
  rw [pcAligned_iff, ht, if_pos rfl] at hpc
  rw [BitVec.toNat_add, BitVec.toNat_add, BitVec.toNat_ofNat]
  omega

/-- BLX from ARM state: form and effect. -/
theorem exec_blxLabel_a32 (h : Bool) (i24 : BitVec 24) (s : State) :
    exec (.blxLabel (.a32 h i24)) s =
      perform (formOf (.blxLabel (.a32 h i24)) (s.cfg.haveV5 && s.cfg.haveThumb && true)) s
        (.ok (linkedJump s true (s.pc + 8#32 + (i24 ++ BitVec.ofBool h ++ 0#1).signExtend 32))) := rfl

/-- BLX from Thumb state: form and effect. -/
theorem exec_blxLabel_t32 (sg j1 j2 : Bool) (i10 i10l : BitVec 10) (s : State) :
    exec (.blxLabel (.t32 sg j1 j2 i10 i10l)) s =
      perform (formOf (.blxLabel (.t32 sg j1 j2 i10 i10l)) (s.cfg.haveV5 && s.cfg.haveThumb && true)) s
        (.ok (linkedJump s false (align4 (s.pc + 4#32) +
          (BitVec.ofBool sg ++ iBit j1 sg ++ iBit j2 sg ++ i10 ++ i10l ++ 0#2).signExtend 32))) := rfl

theorem exec_absent {i : Instr} {s : State} {f : Bool} {k : Except Stop State} (hf : f = false)
    (hx : exec i s = perform (formOf i f) s k) : exec i s = .refused .notAvailable :=
  hx.trans (perform_unavailable _ _ _ (by rw [available, formOf, hf]; rfl))

theorem cpsr_with_t {p : Cpsr} {t : Bool} (h : p.t = t) (it : BitVec 8) :
    { p with t := t, it := it } = { p with it := it } := by
  subst h
  rfl

/-- B in its encoding with a condition of its own: taken or skipped. -/
theorem branches_b_t3 {c : Cond} {sg j1 j2 : Bool} {i6 : BitVec 6} {i11 : BitVec 11} {s : State}
    (hpc : pcAligned s = true) (ht : s.cpsr.t = true) (h2 : s.cfg.haveT2 = true) (hit : s.cpsr.it = 0#8) :
    Branches (.b (.t3 c sg j1 j2 i6 i11)) s [] true
      (if condHolds c s.cpsr then s.pc + 4#32 + offsetT3 sg j1 j2 i6 i11 else s.pc + 4#32) := by
  have hx : exec (.b (.t3 c sg j1 j2 i6 i11)) s = perform (formOf (.b (.t3 c sg j1 j2 i6 i11)) s.cfg.haveT2) s
      (branchWritePc s (s.pc + 4#32 + offsetT3 sg j1 j2 i6 i11)) := by rfl
  have hav : available (formOf (.b (.t3 c sg j1 j2 i6 i11)) s.cfg.haveT2) s = true := by
    simp only [available, formOf, h2, ht]
    rfl
  cases hc : condHolds c s.cpsr with
  | true =>
    have ha := thumbTarget_mod ht hpc (BitVec.ofBool sg ++ BitVec.ofBool j2 ++ BitVec.ofBool j1 ++ i6 ++ i11)
    rw [branchWritePc_thumb (a := s.pc + 4#32 + offsetT3 sg j1 j2 i6 i11) ht ha] at hx
    exact ⟨_, hx.trans (perform_runs _ _ _ c hav (misplaced_no_block hit) rfl hc),
      becomes_finish_branch rfl (becomes_pc_t ht (becomes_refl s) _)⟩
  | false =>
    refine ⟨_, hx.trans (perform_skips _ _ _ c hav (misplaced_no_block hit) rfl hc), ?_⟩
    rw [cpsr_with_t ht, itNext_eq]
    exact becomes_cpsr_pc s _ _

/-- Settles O38: each target as an integer, each branch by `BranchWritePC` or by its own jump. -/
theorem labelBranchResults : Obligations.LabelBranchResults := by
  intro c sg j1 j2 h i24 i10 i10l i6 i11 s hpc pc at4 armTo high t4To t3To v5t
  have hl : ∀ t size, s.cpsr.t = t → s.linkValue size = if t then (s.pc + size) ||| 1#32 else s.pc + size :=
    fun t size ht => by rw [State.linkValue, ht]
  refine ⟨fun hr => ?_, fun hr hv => ?_, fun hv => ⟨?_, ?_⟩, fun hr he => ?_, fun ht h2 hit => ?_⟩
  · have ht : s.cpsr.t = false := (isThumb_of_runs _ _ _ hr).symm
    have ha := armTarget_mod ht hpc i24
    refine ⟨branches_of_branchWritePc (f := true) (becomes_refl s) hr rfl (misplaced_arm rfl) ht ha
      (armTarget_eq s i24) rfl, ?_⟩
    refine branches_of_branchWritePc (f := true) (v := s.setReg 14#4 (s.linkValue 4#32)) ?_ hr rfl (misplaced_arm rfl)
      ht ha (armTarget_eq s i24) rfl
    rw [hl _ _ ht]
    exact becomes_setReg_only s _ _
  · have ht : s.cpsr.t = false := (isThumb_of_runs _ _ _ hr).symm
    have ha : s.pc + 8#32 + _ = at4 _ := blxArmTarget_eq s h i24
    rw [← ha, ← show s.linkValue 4#32 = s.pc + 4#32 from hl _ _ ht]
    exact branches_of_effect ((Bool.and_true _).trans hv) (misplaced_arm rfl) hr rfl (becomes_linkedJump s true _)
      (exec_blxLabel_a32 h i24 s)
  · exact exec_absent ((Bool.and_true _).trans hv) (exec_blxLabel_a32 h i24 s)
  · exact exec_absent ((Bool.and_true _).trans hv) (exec_blxLabel_t32 sg j1 j2 i10 i10l s)
  · have ht : s.cpsr.t = true := (isThumb_of_runs _ _ _ hr).symm
    have hm : ∀ {i : Instr} {f : Bool}, placeOf i = .lastOnly → misplaced (formOf i f) s = none :=
      fun hp => misplaced_lastOnly hp he
    have ha := thumbTarget_mod ht hpc (BitVec.ofBool sg ++ iBit j1 sg ++ iBit j2 sg ++ i10 ++ i11)
    refine ⟨fun h2 => ?_, ?_, fun hv => ?_⟩
    · exact branches_of_branchWritePc (becomes_refl s) hr h2 (hm rfl) ht ha (t4Target_eq s sg j1 j2 i10 i11) (by rfl)
    · refine branches_of_branchWritePc (f := true) (v := s.setReg 14#4 (s.linkValue 4#32)) ?_ hr rfl (hm rfl) ht ha
        (t4Target_eq s sg j1 j2 i10 i11) rfl
      rw [hl _ _ ht]
      exact becomes_setReg_only s _ _
    · have ha : align4 (s.pc + 4#32) + _ = BitVec.ofInt 32 (((pc + 4) / 4 * 4) + high + 4 * i10l.toNat) :=
        blxThumbTarget_eq s sg j1 j2 i10 i10l
      rw [← ha, ← show s.linkValue 4#32 = (s.pc + 4#32) ||| 1#32 from hl _ _ ht]
      exact branches_of_effect ((Bool.and_true _).trans hv) (hm rfl) hr rfl (becomes_linkedJump s false _)
        (exec_blxLabel_t32 sg j1 j2 i10 i10l s)
  · rw [← show s.pc + 4#32 + offsetT3 sg j1 j2 i6 i11 = t3To from t3Target_eq s sg j1 j2 i6 i11]
    exact branches_b_t3 hpc ht h2 hit

end Sys2Proof.Machine
end

section
/-! SUPPORT and PROOFS. Branches to a register, compare and branch, table branch (spec 45_branch_it
sections 4 and 5). -/

namespace Sys2Proof.Machine

open Sys2Proof

/-! ### Branches to a register -/

/-- `BXWritePC`, by bit 0, bit 1 and the presence of Thumb state. -/
theorem bxWritePc_eq (s : State) (a : Word) : bxWritePc s a =
    if a.toNat % 2 = 1 ∧ s.cfg.haveThumb = true then
      .ok { s with cpsr := { s.cpsr with t := true }, pc := a - 1#32 }
    else if a.toNat / 2 % 2 = 1 then .error (.refuse .misalignedBranchTarget)
    else .ok { s with
      cpsr := { s.cpsr with t := if a.toNat % 2 = 1 then s.cpsr.t else false }
      pc := a - BitVec.ofNat 32 (a.toNat % 2) } := by
  have hodd : a.toNat % 2 = 1 → a &&& 0xFFFFFFFE#32 = a - 1#32 := fun h => by
    apply BitVec.eq_of_toNat_eq
    rw [toNat_and_even, BitVec.toNat_sub, BitVec.toNat_ofNat]
    omega
  rw [bxWritePc, getLsbD_zero_eq, getLsbD_one_eq]
  simp only [decide_eq_true_eq]
  by_cases h0 : a.toNat % 2 = 1
  · cases hT : s.cfg.haveThumb <;> by_cases h1 : a.toNat / 2 % 2 = 1 <;> simp [h0, h1, hodd h0]
  · have hz : a.toNat % 2 = 0 := by omega
    by_cases h1 : a.toNat / 2 % 2 = 1 <;> simp [hz, h1]

/-- A branch by `BXWritePC` after register writes. -/
theorem branchesTo_of_bxWritePc {i : Instr} {s v : State} {f wide : Bool} {w : List (Reg × Word)} {a : Word}
    (hv : Becomes s v w s.cpsr s.pc s.ac s.draws s.byteAt) (hf : f = true) (hm : misplaced (formOf i f) s = none)
    (hr : runs (encodingOf i) wide s = true) (hx : exec i s = perform (formOf i f) s (bxWritePc v a))
    (hw : flowOf i = .branch := by rfl) (ho : ownOf i = none := by rfl) : BranchesTo i s w a := by
  have hvt : v.cpsr.t = s.cpsr.t := by rw [hv.2.1]
  have hvT : v.cfg.haveThumb = s.cfg.haveThumb := by
    obtain ⟨-, -, -, -, -, -, hc, -⟩ := hv
    rw [hc]
  rw [bxWritePc_eq, hvT, hvt] at hx
  unfold BranchesTo
  split
  · next h =>
    rw [if_pos h] at hx
    exact branches_of_effect hf hm hr rfl (becomes_jump hv _ _) hx hw ho
  · next h =>
    rw [if_neg h] at hx
    split
    · next h1 =>
      rw [hx, if_pos h1, perform_of_runs _ ho hf hm hr]
    · next h1 =>
      rw [if_neg h1] at hx
      exact branches_of_effect hf hm hr rfl (becomes_jump hv _ _) hx hw ho

/-- The checks of a register operand of a branch. -/
theorem srcChecks_pass (e : Enc) (rm : Reg) :
    (∀ x ∈ [srcPc rm, noSp e rm], x.1 = false) ↔ plainOk e [rm] = true := by
  exact plainChecks_pass e [] [rm]

theorem srcChecks_bad {e : Enc} {rm : Reg} (h : plainOk e [rm] = false) (k : Except Stop State) :
    ∃ r, checked [srcPc rm, noSp e rm] k = .error (.refuse r) ∧
      r ∈ [Refusal.pcAsDestination, .pcOperand, .spOperand, .sameRegister] := by
  obtain ⟨r, hm, he⟩ := checked_bad [srcPc rm, noSp e rm] k
    ((checks_fail _).1 (mt (srcChecks_pass e rm).1 (by simp [h])))
  refine ⟨r, he, ?_⟩
  simp only [srcPc, noSp, List.map_cons, List.map_nil, List.mem_cons, List.not_mem_nil, or_false] at hm
  rcases hm with rfl | rfl <;> simp

theorem exec_bx (e : Enc) (rm : Reg) (s : State) : exec (.bx e rm) s =
    perform (formOf (.bx e rm) s.cfg.haveThumb) s (checked [srcPc rm, noSp e rm] (bxWritePc s (s.reg rm))) := by
  cases e <;> rfl

theorem exec_blxReg (e : Enc) (rm : Reg) (s : State) : exec (.blxReg e rm) s =
    perform (formOf (.blxReg e rm) s.cfg.haveV5) s (checked [srcPc rm, noSp e rm]
      (bxWritePc (s.setReg 14#4 (linkOf s (if e.isThumb then 2#32 else 4#32))) (s.reg rm))) := by
  cases e <;> rfl

theorem exec_bxj (e : Enc) (rm : Reg) (s : State) : exec (.bxj e rm) s =
    perform (formOf (.bxj e rm) (s.cfg.haveV5J && (!e.isThumb || s.cfg.haveT2))) s
      (checked [srcPc rm, noSp e rm]
        (checked [(s.cfg.jazelleAvailable, .jazelleNotModelled)] (bxWritePc s (s.reg rm)))) := by
  cases e <;> rfl

/-- The refusal of an operand. -/
theorem refusesOperand_of_srcChecks {i : Instr} {s : State} {e : Enc} {rm : Reg} {f wide : Bool}
    {k : Except Stop State} (h : plainOk e [rm] = false) (hf : f = true) (hm : misplaced (formOf i f) s = none)
    (hr : runs (encodingOf i) wide s = true)
    (hx : exec i s = perform (formOf i f) s (checked [srcPc rm, noSp e rm] k)) (ho : ownOf i = none := by rfl) :
    RefusesOperand i s := by
  obtain ⟨r, hc, hmem⟩ := srcChecks_bad h k
  exact ⟨r, by rw [hx, hc, perform_of_runs _ ho hf hm hr], hmem⟩

/-- Settles O39: the operand checks, then `BXWritePC`. -/
theorem registerBranchResults : Obligations.RegisterBranchResults := by
  intro e rm s hend size link
  have hm : ∀ {i : Instr} {f : Bool}, placeOf i = .lastOnly → encodingOf i = e → misplaced (formOf i f) s = none :=
    fun hp he => misplaced_branch hp (by subst he; exact hend)
  have hpass : ∀ {k : Except Stop State}, plainOk e [rm] = true → checked [srcPc rm, noSp e rm] k = k :=
    fun h => checked_ok _ _ ((srcChecks_pass e rm).2 h)
  refine ⟨fun h => exec_absent h (exec_bx e rm s), fun h => exec_absent h (exec_blxReg e rm s),
    fun h => exec_absent (by rw [h]; rfl) (exec_bxj e rm s),
    fun hr => ⟨fun hT hok => ?_, fun h5 hok => ?_, fun hok => ⟨fun hT => ?_, fun h5 => ?_⟩⟩,
    fun hr h5J => ?_⟩
  · exact branchesTo_of_bxWritePc (becomes_refl s) hT (hm rfl rfl) hr ((exec_bx e rm s).trans (by rw [hpass hok]))
  · exact branchesTo_of_bxWritePc (becomes_setReg_only s _ _) h5 (hm rfl rfl) hr
      ((exec_blxReg e rm s).trans (by rw [hpass hok]))
  · exact refusesOperand_of_srcChecks hok hT (hm rfl rfl) hr (exec_bx e rm s)
  · exact refusesOperand_of_srcChecks hok h5 (hm rfl rfl) hr (exec_blxReg e rm s)
  · have hf : (s.cfg.haveV5J && (!e.isThumb || s.cfg.haveT2)) = true := by
      cases e with
      | a32 c => simp [h5J, Enc.isThumb]
      | thumb =>
        simp only [runs, Bool.and_eq_true, Bool.not_true, Bool.false_or] at hr
        simp [h5J, hr.1.2]
    have hx := exec_bxj e rm s
    refine ⟨fun hok => refusesOperand_of_srcChecks hok hf (hm rfl rfl) hr hx, fun hok hj => ?_, fun hok hj => ?_⟩
    · rw [hx, hpass hok, hj]
      exact perform_of_runs (fm := formOf (.bxj e rm) _) (.error (.refuse .jazelleNotModelled)) rfl hf (hm rfl rfl) hr
    · exact branchesTo_of_bxWritePc (becomes_refl s) hf (hm rfl rfl) hr (hx.trans (by rw [hpass hok, hj]; rfl))

/-! ### Compare and branch, table branch -/

/-- An access that is not allowed raises a data abort at one of its bytes. -/
theorem accessAbort_denied {s : State} {priv wr : Bool} {a : Word} {w : Width}
    (h : allowsAccess s priv (rightOf wr) a w = false) :
    ∃ k b, b ∈ touched a w ∧ accessAbort s priv wr a w = some (.dataAbort k b wr) := by
  cases he : accessAbort s priv wr a w with
  | none => rw [(accessAbort_none_iff s priv wr a w).1 he] at h; cases h
  | some e =>
    obtain ⟨k, b, hb, rfl, -⟩ := accessAbort_some s priv wr a w e he
    exact ⟨k, b, hb, rfl⟩

theorem cbOffset_eq (i : Bool) (i5 : BitVec 5) (s : State) :
    s.pc + 4#32 + (BitVec.ofBool i ++ i5 ++ 0#1).setWidth 32 =
      s.pc + BitVec.ofNat 32 (4 + 64 * i.toNat + 2 * i5.toNat) := by
  have hv : (BitVec.ofBool i ++ i5 ++ 0#1).setWidth 32 = BitVec.ofNat 32 (64 * i.toNat + 2 * i5.toNat) := by
    rw [← BitVec.ofNat_toNat, toNat_append', toNat_append', BitVec.toNat_ofBool, BitVec.toNat_ofNat]
    congr 1
    omega
  rw [hv, BitVec.add_assoc, Nat.add_assoc, BitVec.ofNat_add 4]

/-- An even number of bytes from an aligned PC, in Thumb state. -/
theorem pc_add_even_mod {s : State} {n : Nat} (ht : s.cpsr.t = true) (hpc : pcAligned s = true) (hn : n % 2 = 0) :
    (s.pc + BitVec.ofNat 32 n).toNat % 2 = 0 := by
  rw [pcAligned_iff, ht, if_pos rfl] at hpc
  rw [BitVec.toNat_add, BitVec.toNat_ofNat]
  omega

/-- Compare and branch, where it executes. -/
theorem branches_cbOp {j : Instr} {i taken : Bool} {i5 : BitVec 5} {s : State} (h2 : s.cfg.haveT2 = true)
    (ht : s.cpsr.t = true) (hit : s.cpsr.it = 0#8) (hpc : pcAligned s = true)
    (hx : exec j s = cbOp i i5 s taken) (he : looseForm s.cfg 2#32 = formOf j s.cfg.haveT2 := by rfl)
    (henc : encodingOf j = .thumb := by rfl) (hw : flowOf j = .branch := by rfl) (ho : ownOf j = none := by rfl) :
    Branches j s [] true
      (if taken then s.pc + BitVec.ofNat 32 (4 + 64 * i.toNat + 2 * i5.toNat) else s.pc + 2#32) := by
  have hr : runs (encodingOf j) true s = true := henc ▸ runs_no_block ht hit h2
  rw [cbOp, he, cbOffset_eq] at hx
  refine branches_of_effect h2 (misplaced_no_block hit) hr ?_ (becomes_pc_t ht (becomes_refl s) _) hx hw ho
  cases taken with
  | false => rfl
  | true => exact branchWritePc_thumb ht (pc_add_even_mod ht hpc (by omega))

/-- Table branch: the operands, the read, the jump. -/
theorem tableBranch_results {j : Instr} {s : State} {rn rm : Reg} {x : Word} {w : Width} (h2 : s.cfg.haveT2 = true)
    (ht : s.cpsr.t = true) (hit : s.cpsr.it = 0#8) (hpc : pcAligned s = true)
    (hx : exec j s = tableBranch rn rm s x w) (he : looseForm s.cfg 4#32 = formOf j s.cfg.haveT2 := by rfl)
    (henc : encodingOf j = .thumb := by rfl) (hw : flowOf j = .branch := by rfl) (ho : ownOf j = none := by rfl) :
    (rm ≠ 15#4 → rm ≠ 13#4 → rn ≠ 13#4 →
      (allowsAccess s s.privileged Rights.read (s.reg rn + x) w = true →
        Branches j s [] true (s.pc + BitVec.ofNat 32 (4 + 2 * numberAt s (s.reg rn + x) w))) ∧
      (allowsAccess s s.privileged Rights.read (s.reg rn + x) w = false → Aborts j s (s.reg rn + x) w false)) ∧
    (rm = 15#4 ∨ rm = 13#4 ∨ rn = 13#4 → RefusesOperand j s) := by
  have hr : runs (encodingOf j) true s = true := henc ▸ runs_no_block ht hit h2
  have hm : misplaced (formOf j s.cfg.haveT2) s = none := misplaced_no_block hit
  rw [tableBranch, he] at hx
  refine ⟨fun h15 h13 hn13 => ?_, fun hbad => ?_⟩
  · rw [checked_ok _ _ (by simp [srcPc, noSp, h15, h13, hn13])] at hx
    refine ⟨fun hal => ?_, fun hal => ?_⟩
    · have hdest : s.pc + 4#32 + s.loadValue (s.reg rn + x) w + s.loadValue (s.reg rn + x) w =
          s.pc + BitVec.ofNat 32 (4 + 2 * numberAt s (s.reg rn + x) w) := by
        rw [loadValue_eq, Nat.two_mul, BitVec.ofNat_add 4, BitVec.ofNat_add, BitVec.add_assoc, BitVec.add_assoc]
      rw [memRead_allowed hal] at hx
      simp only [hdest] at hx
      exact branches_of_effect h2 hm hr (branchWritePc_thumb ht (pc_add_even_mod ht hpc (by omega)))
        (becomes_pc_t ht (becomes_refl s) _) hx hw ho
    · obtain ⟨k, b, hb, hab⟩ := accessAbort_denied (wr := false) hal
      rw [memRead_of_abort hab, perform_of_runs _ ho h2 hm hr] at hx
      exact ⟨k, b, hb, hx⟩
  · obtain ⟨r, hmem, hc⟩ := checked_bad [srcPc rm, noSp .thumb rm, noSp .thumb rn] _
      (by simpa [srcPc, noSp, Enc.isThumb] using hbad)
    rw [hc, perform_of_runs _ ho h2 hm hr] at hx
    refine ⟨r, hx, ?_⟩
    simp only [srcPc, noSp, List.map_cons, List.map_nil, List.mem_cons, List.not_mem_nil, or_false] at hmem
    rcases hmem with rfl | rfl | rfl <;> simp

/-- Settles O40: both comparisons are one branch, both tables one table branch. -/
theorem compareAndTableBranchResults : Obligations.CompareAndTableBranchResults := by
  intro i i5 r rn rm s
  refine ⟨fun h2 x hx => ?_, fun h2 ht hit hpc => ?_⟩
  · simp only [List.mem_cons, List.not_mem_nil, or_false] at hx
    rcases hx with rfl | rfl | rfl | rfl <;> exact perform_unavailable _ _ _ (by rw [available, looseForm, h2]; rfl)
  · intro dest zero b h
    have hz : (s.reg (r.setWidth 4) == 0#32) = zero := by
      rw [← BitVec.ofNat_toNat, beq_eq_decide]
      exact decide_eq_decide.2 (eq_zero_iff_toNat _)
    have hcbz := branches_cbOp (j := .cbz i i5 r) h2 ht hit hpc rfl
    have hcbnz := branches_cbOp (j := .cbnz i i5 r) h2 ht hit hpc rfl
    rw [hz] at hcbz
    rw [bne, hz] at hcbnz
    have hb := tableBranch_results (j := .tbb rn rm) h2 ht hit hpc rfl
    have hh := tableBranch_results (j := .tbh rn rm) h2 ht hit hpc rfl
    rw [shiftReg_eq] at hh
    refine ⟨hcbz, ?_, fun h15 h13 hn => ⟨?_, ?_, ?_, ?_⟩, fun hbad => ⟨hb.2 hbad, hh.2 hbad⟩⟩
    · cases hzz : zero <;> simpa [hzz] using hcbnz
    · exact (hb.1 h15 h13 hn).1
    · exact (hb.1 h15 h13 hn).2
    · exact (hh.1 h15 h13 hn).1
    · exact (hh.1 h15 h13 hn).2

end Sys2Proof.Machine
end

section
/-! SUPPORT and PROOFS. The status registers and changes of state (spec 46_psr_state_change). -/

namespace Sys2Proof.Machine

open Sys2Proof

/-! ### MRS -/

/-- The bits of the CPSR that MRS reads. -/
theorem mrsMask_bit : ∀ k < 32, (0xF8FF03DF#32).getLsbD k =
    decide (k < 5 ∨ 6 ≤ k ∧ k < 10 ∨ 16 ≤ k ∧ k < 20 ∨ 20 ≤ k ∧ k < 24 ∨ 27 ≤ k) := by decide

/-- The CPSR as MRS reads it: the execution state bits as zero. -/
theorem toWord_masked (p : Cpsr) :
    p.toWord &&& 0xF8FF03DF#32 = { p with it := 0#8, j := false, t := false }.toWord := by
  apply BitVec.eq_of_getLsbD_eq
  intro k hk
  rw [BitVec.getLsbD_and, mrsMask_bit k hk]
  interval_cases k <;>
    simp only [Cpsr.toWord, BitVec.getLsbD_append, BitVec.getLsbD_ofBool, BitVec.getLsbD_extractLsb'] <;> norm_num

theorem toNat_masked (p : Cpsr) : (p.toWord &&& 0xF8FF03DF#32).toNat =
    p.n.toNat * 2 ^ 31 + p.z.toNat * 2 ^ 30 + p.c.toNat * 2 ^ 29 + p.v.toNat * 2 ^ 28 + p.q.toNat * 2 ^ 27 +
      p.ge.toNat * 2 ^ 16 + p.e.toNat * 2 ^ 9 + p.a.toNat * 2 ^ 8 + p.i.toNat * 2 ^ 7 + p.f.toNat * 2 ^ 6 +
      p.mode.bits.toNat := by
  have h0 : (0#8).extractLsb' 0 2 = 0#2 ∧ (0#8).extractLsb' 2 6 = 0#6 := by decide
  rw [toWord_masked]
  simp only [Cpsr.toWord, toNat_append', BitVec.toNat_ofBool, Bool.toNat_false, h0.1, h0.2, BitVec.toNat_ofNat,
    Nat.zero_mod, Nat.add_zero]
  ring

theorem exec_mrs_spsr (e : Enc) (rd : Reg) (s : State) : exec (.mrs e true rd) s =
    perform (form4 s.cfg e true) s (checked (plainChecks e [rd] [])
      (match s.spsr with | none => .error (.refuse .noSpsr) | some w => .ok (s.setReg rd w))) := by rfl

/-- Settles O41: the masked CPSR as a sum of its bits. -/
theorem readStatusResults : Obligations.ReadStatusResults := by
  intro e rd s p num word feature
  have hword : p.toWord &&& 0xF8FF03DF#32 = BitVec.ofNat 32 word := by
    have hbits : p.mode.bits.toNat = num p.mode := by cases p.mode <;> rfl
    have hn : (p.toWord &&& 0xF8FF03DF#32).toNat = word := by rw [toNat_masked, hbits]
    rw [← hn, BitVec.ofNat_toNat, BitVec.setWidth_eq]
  refine ⟨gives_setReg (f0 := true) (d := [rd]) (r := []) (g := fun s => s.cpsr.toWord &&& 0xF8FF03DF#32) hword rfl,
    fun w hw => ?_, fun _ hr hok hm => ?_⟩
  · exact gives_setReg (f0 := true) (d := [rd]) (r := []) (g := fun _ => w) rfl
      ((exec_mrs_spsr e rd s).trans (by rw [hw]; rfl))
  · rw [exec_mrs_spsr, (State.spsr_eq_none s).2 hm, perform_form4_runs _ _ _ _ _ rfl rfl hr,
      checked_ok _ _ ((plainChecks_pass e [rd] []).2 hok)]

/-! ### MSR to the CPSR -/

theorem privileged_iff (s : State) : s.privileged = true ↔ s.cpsr.mode ≠ .usr := by
  simp [State.privileged, Mode.privileged]

/-- What MSR gives the CPSR, with the conditions as the statement writes them. -/
theorem cpsrWritten_eq (s : State) (v : Word) (mask : BitVec 4) (m : Mode) : cpsrWritten s v mask m = { s.cpsr with
      n := if mask.getLsbD 3 then v.getLsbD 31 else s.cpsr.n
      z := if mask.getLsbD 3 then v.getLsbD 30 else s.cpsr.z
      c := if mask.getLsbD 3 then v.getLsbD 29 else s.cpsr.c
      v := if mask.getLsbD 3 then v.getLsbD 28 else s.cpsr.v
      q := if mask.getLsbD 3 ∧ s.cfg.haveV5E then v.getLsbD 27 else s.cpsr.q
      ge := if mask.getLsbD 2 ∧ s.cfg.haveV6 then BitVec.ofNat 4 (v.toNat / 65536) else s.cpsr.ge
      e := if mask.getLsbD 1 ∧ s.cfg.haveV6 then v.getLsbD 9 else s.cpsr.e
      a := if mask.getLsbD 1 ∧ s.cfg.haveV6 ∧ s.cpsr.mode ≠ .usr then v.getLsbD 8 else s.cpsr.a
      i := if mask.getLsbD 0 = true ∧ s.cpsr.mode ≠ .usr then v.getLsbD 7 else s.cpsr.i
      f := if mask.getLsbD 0 = true ∧ s.cpsr.mode ≠ .usr then v.getLsbD 6 else s.cpsr.f
      mode := m } := by
  simp only [cpsrWritten, Bool.and_eq_true, privileged_iff, toNat_ge_eq, and_assoc, and_comm (a := s.cpsr.mode ≠ .usr)]

theorem cpsrWrite_good {s : State} {v : Word} {mask : BitVec 4} {m : Mode}
    (h : (if mask.getLsbD 0 && s.privileged then Mode.ofBits (v.extractLsb' 0 5) else some s.cpsr.mode) = some m) :
    cpsrWrite s v mask = .ok { s with cpsr := cpsrWritten s v mask m } := by
  rw [cpsrWrite_eq, h]

/-- Settles O42: the mode written exists, does not exist, or is not written. -/
theorem writeCpsrResults : Obligations.WriteCpsrResults := by
  intro e c mask rot i8 rm s priv control after gives
  have hcontrol : (mask.getLsbD 0 && s.privileged) = true ↔ control := by
    rw [Bool.and_eq_true, privileged_iff]
  have hg : ∀ (i : Instr) (feature ok : Bool) (v : Word) (l : List (Bool × Refusal)),
      exec i s = perform (form4 s.cfg (encodingOf i) true) s (checked l (cpsrWrite s v mask)) →
      sizeOf2 i = 4#32 → (true && (!(encodingOf i).isThumb || s.cfg.haveT2)) = feature →
      ((∀ x ∈ l, x.1 = false) ↔ ok = true) →
      (∀ x ∈ l.map Prod.snd, x ∈ [Refusal.pcAsDestination, .pcOperand, .spOperand, .sameRegister]) →
      gives i feature ok v := by
    intro i feature ok v l hx hs hf hl hr
    have hgood : ∀ m : Mode, (if mask.getLsbD 0 && s.privileged then Mode.ofBits (v.extractLsb' 0 5)
        else some s.cpsr.mode) = some m →
        (if control then m else s.cpsr.mode) = m → Gives i s feature ok [] (after v m) :=
      fun m hm hmode => by
        rw [cpsrWrite_good hm] at hx
        have ha : after v m = cpsrWritten s v mask m := by rw [cpsrWritten_eq, ← hmode]; simp only [after, hmode]; rfl
        rw [ha]
        exact gives_of_form4 i s _ true feature ok [] _ l hx hs hf hl hr (becomes_cpsr_pc s _ _) rfl
    refine ⟨fun hc hm _ hrun hok => ?_, fun m hc hm => ?_, fun hc => ?_⟩
    · rw [hx, checked_ok _ _ (hl.2 hok), cpsrWrite_eq, if_pos (hcontrol.2 hc), hm,
        perform_form4_runs _ _ _ _ _ rfl rfl hrun]
    · exact hgood m (by rw [if_pos (hcontrol.2 hc), hm]) (if_pos hc)
    · exact hgood _ (by rw [if_neg (mt hcontrol.1 hc)]) (if_neg hc)
  refine ⟨hg _ _ _ _ (plainChecks e [] [rm]) rfl rfl rfl (plainChecks_pass e [] [rm]) (plainChecks_refusals e [] [rm]),
    hg _ _ _ _ [] rfl rfl rfl (by simp) (by simp)⟩

end Sys2Proof.Machine
end

section
/-! SUPPORT and PROOFS. MSR to the SPSR, and the changes of state (spec 46_psr_state_change sections 2 and 3). -/

namespace Sys2Proof.Machine

open Sys2Proof

/-! ### MSR to the SPSR -/

theorem eq_of_byteNat {a b : Word} (h : ∀ k < 4, byteNat a k = byteNat b k) : a = b := by
  have h0 := h 0 (by decide)
  have h1 := h 1 (by decide)
  have h2 := h 2 (by decide)
  have h3 := h 3 (by decide)
  have ha := a.isLt
  have hb := b.isLt
  apply BitVec.eq_of_toNat_eq
  simp only [byteNat] at *
  omega

theorem byteMask_byte : ∀ mask : BitVec 4, ∀ k < 4,
    (byteMask mask).extractLsb' (8 * k) 8 = if mask.getLsbD k then BitVec.allOnes 8 else 0#8 := by decide

/-- The bytes a mask selects. -/
theorem byteNat_masked (old v : Word) (mask : BitVec 4) {k : Nat} (hk : k < 4) :
    byteNat ((old &&& ~~~byteMask mask) ||| (v &&& byteMask mask)) k =
      if mask.getLsbD k then byteNat v k else byteNat old k := by
  have hbyte : ((old &&& ~~~byteMask mask) ||| (v &&& byteMask mask)).extractLsb' (8 * k) 8 =
      if mask.getLsbD k then v.extractLsb' (8 * k) 8 else old.extractLsb' (8 * k) 8 := by
    have hm := byteMask_byte mask k hk
    apply BitVec.eq_of_getLsbD_eq
    intro j hj
    have hmj : (byteMask mask).getLsbD (8 * k + j) = mask.getLsbD k := by
      have := congrArg (fun x => BitVec.getLsbD x j) hm
      simp only [BitVec.getLsbD_extractLsb', hj, decide_true, Bool.true_and] at this
      rw [this]
      cases mask.getLsbD k
      · exact BitVec.getLsbD_zero
      · exact BitVec.getLsbD_allOnes.trans (decide_eq_true hj)
    have hlt : 8 * k + j < 32 := by omega
    rw [BitVec.getLsbD_extractLsb', BitVec.getLsbD_or, BitVec.getLsbD_and, BitVec.getLsbD_and, BitVec.getLsbD_not, hmj]
    cases mask.getLsbD k <;> simp [hj, hlt]
  rw [← toNat_extract_byte, hbyte, apply_ite BitVec.toNat, toNat_extract_byte, toNat_extract_byte]

theorem spsrWrite_noSpsr {s : State} (h : s.spsr = none) (v : Word) (mask : BitVec 4) :
    spsrWrite s v mask = .error (.refuse .noSpsr) := by
  rw [spsrWrite, h]

/-- The SPSR after MSR, by its bytes. -/
theorem spsrWrite_eq {s : State} {old r v : Word} {mask : BitVec 4} (h : s.spsr = some old)
    (hr : ∀ k < 4, byteNat r k = if mask.getLsbD k then byteNat v k else byteNat old k) :
    spsrWrite s v mask = .ok (s.setSpsr r) := by
  have he : (old &&& ~~~byteMask mask) ||| (v &&& byteMask mask) = r :=
    eq_of_byteNat fun k hk => by rw [byteNat_masked _ _ _ hk, hr k hk]
  rw [spsrWrite, h]
  exact congrArg (fun x => Except.ok (s.setSpsr x)) he

theorem spsr_setSpsr {s : State} {old : Word} (h : s.spsr = some old) (v : Word) : (s.setSpsr v).spsr = some v := by
  have hm : s.cpsr.mode ≠ .usr ∧ s.cpsr.mode ≠ .sys := by
    constructor <;> intro hm <;> simp [State.spsr, hm] at h
  unfold State.setSpsr
  cases hmode : s.cpsr.mode <;> simp_all [State.spsr]

/-- Settles O43: the bytes the mask selects, in the SPSR of the current mode alone. -/
theorem writeSpsrResults : Obligations.WriteSpsrResults := by
  intro e c mask rot i8 rm s r gives
  have hg : ∀ (i : Instr) (v : Word), runs (encodingOf i) true s = true →
      exec i s = perform (form4 s.cfg (encodingOf i) true) s (spsrWrite s v mask) → gives i v := fun i v hr hx => by
    refine ⟨fun old hold hbytes => ?_, fun hm => ?_⟩
    · rw [spsrWrite_eq hold hbytes, perform_form4_runs _ _ _ _ _ rfl rfl hr] at hx
      obtain ⟨h1, h2, h3, h4, h5⟩ := setSpsr_others s r
      refine ⟨_, hx, ?_, ?_, ?_, ?_, ?_, ?_, ?_, ?_, ?_, ?_⟩
      · rw [finish_form4]
        exact spsr_setSpsr hold r
      · rw [finish_form4, itNext_eq, State.setSpsr_cpsr]
      · rw [finish_form4, State.setSpsr_pc]
      · simp
      · simp
      · simp
      · simp
      · simp
      · simp
      · rw [finish_form4]
        exact ⟨h1, h2, h3, h4, h5⟩
    · rw [hx, spsrWrite_noSpsr ((State.spsr_eq_none s).2 hm), perform_form4_runs _ _ _ _ _ rfl rfl hr]
  have hreg : exec (.msrReg e true mask rm) s =
      perform (form4 s.cfg e true) s (checked (plainChecks e [] [rm]) (spsrWrite s (s.reg rm) mask)) := by rfl
  refine ⟨fun hr hok => hg _ _ hr ?_, fun hr hok => ?_, fun hr => hg _ _ hr rfl⟩
  · rw [hreg, checked_ok _ _ ((plainChecks_pass e [] [rm]).2 hok)]
    rfl
  · obtain ⟨x, hm, he⟩ := checked_bad (plainChecks e [] [rm]) (spsrWrite s (s.reg rm) mask)
      ((checks_fail _).1 (mt (plainChecks_pass e [] [rm]).1 (by simp [hok])))
    exact ⟨x, by rw [hreg, he, perform_form4_runs _ _ _ _ _ rfl rfl hr], plainChecks_refusals e [] [rm] x hm⟩

/-! ### CPS and SETEND -/

/-- The end of an instruction in line. -/
theorem becomes_finish_sequential {fm : Form} {s u : State} {w : List (Reg × Word)} {p : Cpsr}
    (hf : fm.flow = .sequential) (hu : Becomes s u w p s.pc s.ac s.draws s.byteAt) (hit : p.it = s.cpsr.it) :
    Becomes s (finish fm u) w { p with it := itNext fm.enc s } (s.pc + fm.size) s.ac s.draws s.byteAt := by
  obtain ⟨hr, hp, hpc, hac, hd, hb, hc, h1, h2, h3, h4, h5, hn⟩ := hu
  have hfin : finish fm u = { u with cpsr := { p with it := itNext fm.enc s }, pc := s.pc + fm.size } := by
    rw [finish, hf, itNext_eq, ← hit, ← hpc]
    simp only [advanceIt, nextPc]
    split
    · rw [hp]
    · have hp' : u.cpsr = { p with it := p.it } := hp
      rw [← hp']
  rw [hfin]
  exact ⟨hr, rfl, rfl, hac, hd, hb, hc, h1, h2, h3, h4, h5, hn⟩

/-- An instruction in line that executes and whose effect completes. -/
theorem does_of_effect {i : Instr} {s u : State} {f wide : Bool} {k : Except Stop State} {w : List (Reg × Word)}
    {p : Cpsr} (hf : f = true) (hm : misplaced (formOf i f) s = none) (hr : runs (encodingOf i) wide s = true)
    (hk : k = .ok u) (hu : Becomes s u w p s.pc s.ac s.draws s.byteAt) (hit : p.it = s.cpsr.it)
    (hx : exec i s = perform (formOf i f) s k) (hw : flowOf i = .sequential := by rfl) (ho : ownOf i = none := by rfl) :
    Does i s (encodingOf i) w p := by
  subst hk
  exact ⟨_, hx.trans (perform_of_runs (.ok u) ho hf hm hr), becomes_finish_sequential hw hu hit⟩

theorem changeMode_some {s : State} {mode : BitVec 5} {k : Mode} (h : Mode.ofBits mode = some k) :
    changeMode s mode = .ok { s with cpsr := { s.cpsr with mode := k } } := by
  rw [changeMode, h]

theorem changeMode_none {s : State} {mode : BitVec 5} (h : Mode.ofBits mode = none) :
    changeMode s mode = .error (.refuse .badMode) := by
  rw [changeMode, h]

/-- The state with the named masks written. -/
def State.withMasks (s : State) (v a i f : Bool) : State :=
  { s with cpsr := { s.cpsr with
    a := if a then v else s.cpsr.a, i := if i then v else s.cpsr.i, f := if f then v else s.cpsr.f } }

/-- The effect of CPSIE and CPSID. -/
def cpsEffect (s : State) (v m a i f : Bool) (mode : BitVec 5) : Except Stop State :=
  if s.privileged then
    (if m then changeMode (s.withMasks v a i f) mode else .ok (s.withMasks v a i f))
  else .ok s

/-- The feature of CPS, CPSIE and CPSID. -/
def cpsFeature (s : State) (thumb : Bool) : Bool := s.cfg.haveV6 && (!(encOf thumb).isThumb || s.cfg.haveT2)

theorem exec_cpsie (thumb m a i f : Bool) (mode : BitVec 5) (s : State) : exec (.cpsie thumb m a i f mode) s =
    perform (formOf (.cpsie thumb m a i f mode) (cpsFeature s thumb)) s (cpsEffect s false m a i f mode) := rfl

theorem exec_cpsid (thumb m a i f : Bool) (mode : BitVec 5) (s : State) : exec (.cpsid thumb m a i f mode) s =
    perform (formOf (.cpsid thumb m a i f mode) (cpsFeature s thumb)) s (cpsEffect s true m a i f mode) := rfl

theorem exec_cps (thumb : Bool) (mode : BitVec 5) (s : State) : exec (.cps thumb mode) s =
    perform (formOf (.cps thumb mode) (cpsFeature s thumb)) s
      (if s.privileged then changeMode s mode else .ok s) := rfl

theorem cpsFeature_of_runs {s : State} {thumb : Bool} (h6 : s.cfg.haveV6 = true)
    (hr : runs (encOf thumb) true s = true) : cpsFeature s thumb = true := by
  cases thumb with
  | false => simp [cpsFeature, h6, encOf, Enc.isThumb]
  | true =>
    simp only [encOf, runs, if_true, Bool.and_eq_true, Bool.not_true, Bool.false_or] at hr
    simp [cpsFeature, h6, hr.1.2]

/-- Settles O44: by the privilege, and by whether the number is a mode. -/
theorem changeStateResults : Obligations.ChangeStateResults := by
  intro thumb m a i f big mode s h6 hit masks done
  have hm : ∀ {x : Instr} {g : Bool}, encodingOf x = encOf thumb → misplaced (formOf x g) s = none := fun he => by
    cases thumb with
    | false => exact misplaced_arm (by rw [formOf, he]; rfl)
    | true => exact misplaced_no_block (hit rfl)
  refine ⟨fun hr => ?_, fun hr => ?_⟩
  · have hf := cpsFeature_of_runs h6 hr
    have hdone : ∀ {x : Instr} {k : Except Stop State} {p : Cpsr},
        exec x s = perform (formOf x (cpsFeature s thumb)) s k → encodingOf x = encOf thumb →
        flowOf x = .sequential → ownOf x = none → k = .ok { s with cpsr := p } → p.it = s.cpsr.it → done x p :=
      fun hx he hw ho hk hp => does_of_effect hf (hm he) (he ▸ hr) hk (becomes_cpsr_pc s _ s.pc) hp hx hw ho
    have hbad : ∀ {x : Instr} {k : Except Stop State},
        exec x s = perform (formOf x (cpsFeature s thumb)) s k → encodingOf x = encOf thumb → ownOf x = none →
        k = .error (.refuse .badMode) → exec x s = .refused .badMode := fun hx he ho hk => by
      subst hk
      exact hx.trans (perform_of_runs _ ho hf (hm he) (he ▸ hr))
    have hie := exec_cpsie thumb m a i f mode s
    have hid := exec_cpsid thumb m a i f mode s
    have hcps := exec_cps thumb mode s
    refine ⟨fun hu => ?_, fun hu hm => ?_, fun k hu hk => ⟨fun hm => ?_, ?_⟩, fun hu hk => ⟨fun hm => ?_, ?_⟩⟩
    · have hp : s.privileged = false := by rw [← Bool.not_eq_true, privileged_iff, not_not, hu]
      exact ⟨hdone hie rfl rfl rfl (by simp [cpsEffect, hp]) rfl, hdone hid rfl rfl rfl (by simp [cpsEffect, hp]) rfl,
        hdone hcps rfl rfl rfl (by simp [hp]) rfl⟩
    all_goals have hp := (privileged_iff s).2 hu
    · exact ⟨hdone hie rfl rfl rfl (by rw [cpsEffect, if_pos hp, hm]; rfl) rfl,
        hdone hid rfl rfl rfl (by rw [cpsEffect, if_pos hp, hm]; rfl) rfl⟩
    · exact ⟨hdone hie rfl rfl rfl (by rw [cpsEffect, if_pos hp, if_pos hm, changeMode_some hk]; rfl) rfl,
        hdone hid rfl rfl rfl (by rw [cpsEffect, if_pos hp, if_pos hm, changeMode_some hk]; rfl) rfl⟩
    · exact hdone hcps rfl rfl rfl (by rw [if_pos hp, changeMode_some hk]) rfl
    · exact ⟨hbad hie rfl rfl (by rw [cpsEffect, if_pos hp, if_pos hm, changeMode_none hk]),
        hbad hid rfl rfl (by rw [cpsEffect, if_pos hp, if_pos hm, changeMode_none hk])⟩
    · exact hbad hcps rfl rfl (by rw [if_pos hp, changeMode_none hk])
  · exact does_of_effect h6 (hm rfl) hr rfl (becomes_cpsr_pc s _ s.pc) rfl (by cases thumb <;> rfl)

end Sys2Proof.Machine
end

section
/-! SUPPORT and PROOFS. Loads and stores (spec 47_load_store): the operand checks, the access, the base and the
register. -/

namespace Sys2Proof.Machine

open Sys2Proof

/-! ### The operand checks -/

/-- The checks of a load or store, by the parts its addressing form has. -/
theorem memChecks_pass (c : Config) (e : Enc) (load spD : Bool) (rd : Reg) (p : Option Reg × Option Reg × Bool) :
    (∀ x ∈ memChecks c e load spD rd p, x.1 = false) ↔ memOk c e load spD rd p = true := by
  obtain ⟨rn, rm, wb⟩ := p
  have hrd : (if load then destPc rd else srcPc rd).1 = (rd == 15#4) := by cases load <;> rfl
  cases rn with
  | none =>
    cases rm with
    | none => simp [memChecks, memOk, hrd]; grind
    | some rm => simp [memChecks, memOk, srcPc, noSp]; grind
  | some rn =>
    cases rm with
    | none => simp [memChecks, memOk, hrd]; grind
    | some rm => simp [memChecks, memOk, srcPc, noSp]; grind

theorem memChecks_refusals (c : Config) (e : Enc) (load spD : Bool) (rd : Reg) (p : Option Reg × Option Reg × Bool) :
    ∀ r ∈ (memChecks c e load spD rd p).map Prod.snd,
      r ∈ [Refusal.pcAsDestination, .pcOperand, .spOperand, .baseIsDestination, .baseIsIndex] := by
  obtain ⟨rn, rm, wb⟩ := p
  intro r hr
  cases rn <;> cases rm <;> cases load <;>
    simp [memChecks, srcPc, destPc, noSp] at hr ⊢ <;> tauto

/-! ### The effects -/

/-- One more register write. -/
theorem becomes_setReg_after {s v : State} {w : List (Reg × Word)} {ac : BitVec 40} {bytes : Word → Byte}
    (h : Becomes s v w s.cpsr s.pc ac s.draws bytes) (i : Reg) (x : Word) :
    Becomes s (v.setReg i x) ((i, x) :: w) s.cpsr s.pc ac s.draws bytes := by
  obtain ⟨hr, hp, hpc, hac, hd, hb, hc, h1, h2, h3, h4, h5, hn⟩ := h
  refine ⟨fun q => ?_, ?_, ?_, ?_, ?_, fun a => ?_, ?_, ?_, ?_, ?_, ?_, ?_, ?_⟩
  · rw [State.setReg_regs_get, written_cons, hp, hr]
  all_goals simp only [State.byteAt, State.setReg_cpsr, State.setReg_pc, State.setReg_ac, State.setReg_draws,
    State.setReg_mem, State.setReg_cfg, State.setReg_spsrFiq, State.setReg_spsrIrq, State.setReg_spsrSvc,
    State.setReg_spsrAbt, State.setReg_spsrUnd, State.setReg_stepNo]
  exacts [hp, hpc, hac, hd, hb a, hc, h1, h2, h3, h4, h5, hn]

/-- The write-back of a base. -/
theorem becomes_writeBase {s v : State} {bytes : Word → Byte} (h : Becomes s v [] s.cpsr s.pc s.ac s.draws bytes)
    (b : Option (Reg × Word)) : Becomes s (v.writeBase b) b.toList s.cpsr s.pc s.ac s.draws bytes := by
  cases b with
  | none => exact h
  | some b => exact becomes_setReg_after h b.1 b.2

/-- A loaded value, extended. -/
theorem extendLoad_eq (s : State) (a : Word) (w : Width) (sg : Bool) :
    extendLoad w sg (s.loadValue a w) = loadResult s a w sg := by
  have hcut : ∀ k, k ≤ 32 → ∀ n, (BitVec.ofNat 32 n).setWidth k = BitVec.ofNat k n := fun k hk n =>
    BitVec.setWidth_ofNat_of_le hk n
  rw [loadValue_eq]
  unfold loadResult
  cases sg
  · cases w <;> rfl
  · cases w with
    | byte => rw [extendLoad, extract_eq_setWidth, hcut 8 (by decide)]; rfl
    | half => rw [extendLoad, extract_eq_setWidth, hcut 16 (by decide)]; rfl
    | word => exact BitVec.ofInt_toInt.symm

theorem loadEffect_allowed {s : State} {priv : Bool} {a : Address} {w : Width}
    (h : allowsAccess s priv Rights.read a.addr w = true) (sg : Bool) (rd : Reg) :
    loadEffect s priv a w sg rd = .ok ((s.writeBase a.writeback).setReg rd (loadResult s a.addr w sg)) := by
  rw [loadEffect, memRead_allowed h, ← extendLoad_eq]

theorem storeEffect_allowed {s : State} {priv : Bool} {a : Address} {w : Width}
    (h : allowsAccess s priv Rights.write a.addr w = true) (rd : Reg) :
    storeEffect s priv a w rd = if touchesCode s a.addr w then .error (.refuse .storeToCode)
      else .ok ((s.storeValue a.addr w (s.reg rd)).writeBase a.writeback) := by
  rw [storeEffect, memWrite_allowed h]
  cases touchesCode s a.addr w <;> rfl

theorem becomes_storeValue {s : State} (hwf : Memory.wf s.mem = true) (a v : Word) (w : Width) :
    Becomes s (s.storeValue a w v) [] s.cpsr s.pc s.ac s.draws (byteAfterStore s a w v) :=
  ⟨fun _ => rfl, rfl, rfl, rfl, rfl, fun b => storeValue_byteAt hwf a b v w, rfl, rfl, rfl, rfl, rfl, rfl, rfl⟩

/-! ### What a load or store gives -/

/-- The operands of a load or store are refused. -/
theorem refusesAddress_of_memChecks {i : Instr} {s : State} {f0 load spD : Bool} {rd : Reg}
    {p : Option Reg × Option Reg × Bool} {k : Except Stop State} (hf : f0 = true)
    (hr : runs (encodingOf i) true s = true) (hok : memOk s.cfg (encodingOf i) load spD rd p = false)
    (hx : exec i s = perform (form4 s.cfg (encodingOf i) f0) s
      (checked (memChecks s.cfg (encodingOf i) load spD rd p) k)) : RefusesAddress i s := by
  have hbad : ¬∀ x ∈ memChecks s.cfg (encodingOf i) load spD rd p, x.1 = false := by
    rw [memChecks_pass, hok]
    exact Bool.false_ne_true
  obtain ⟨r, hm, he⟩ := checked_bad _ k ((checks_fail _).1 hbad)
  exact ⟨r, by rw [hx, he, perform_form4_runs _ _ _ _ _ rfl hf hr], memChecks_refusals _ _ _ _ _ _ r hm⟩

theorem givesLoad_of {i : Instr} {s : State} {f0 f spD priv sg : Bool} {rd : Reg}
    {p : Option Reg × Option Reg × Bool} {a : Address} {w : Width}
    (hx : exec i s = perform (form4 s.cfg (encodingOf i) f0) s
      (checked (memChecks s.cfg (encodingOf i) true spD rd p) (loadEffect s priv a w sg rd)))
    (hf : (f0 && (!(encodingOf i).isThumb || s.cfg.haveT2)) = f) (hs : sizeOf2 i = 4#32 := by rfl) :
    GivesLoad i s f (memOk s.cfg (encodingOf i) true spD rd p) priv rd a w sg := by
  have hf0 : f = true → f0 = true := fun h => (Bool.and_eq_true_iff.1 (hf.trans h)).1
  refine ⟨fun h => ?_, fun h hr hok => refusesAddress_of_memChecks (hf0 h) hr hok hx,
    fun h hr hok => ⟨fun hal => ?_, fun hal => ?_⟩⟩
  · rw [hx]
    exact perform_form4_absent _ _ _ _ _ (hf.trans h)
  all_goals rw [checked_ok _ _ ((memChecks_pass _ _ _ _ _ _).2 hok)] at hx
  · rw [loadEffect_allowed hal, perform_form4_runs _ _ _ _ _ rfl (hf0 h) hr] at hx
    exact ⟨_, hx, hs ▸ becomes_finish_form4 _ _ _ _ _ _ _ _ _ _
      (becomes_setReg_after (becomes_writeBase (becomes_refl s) _) _ _) rfl⟩
  · obtain ⟨k, b, hb, hab⟩ := accessAbort_denied (wr := false) hal
    rw [loadEffect, memRead_of_abort hab, perform_form4_runs _ _ _ _ _ rfl (hf0 h) hr] at hx
    exact ⟨k, b, hb, hx⟩

theorem givesStore_of {i : Instr} {s : State} {f0 f spD priv : Bool} {rd : Reg}
    {p : Option Reg × Option Reg × Bool} {a : Address} {w : Width} (hwf : Memory.wf s.mem = true)
    (hx : exec i s = perform (form4 s.cfg (encodingOf i) f0) s
      (checked (memChecks s.cfg (encodingOf i) false spD rd p) (storeEffect s priv a w rd)))
    (hf : (f0 && (!(encodingOf i).isThumb || s.cfg.haveT2)) = f) (hs : sizeOf2 i = 4#32 := by rfl) :
    GivesStore i s f (memOk s.cfg (encodingOf i) false spD rd p) priv rd a w := by
  have hf0 : f = true → f0 = true := fun h => (Bool.and_eq_true_iff.1 (hf.trans h)).1
  refine ⟨fun h => ?_, fun h hr hok => refusesAddress_of_memChecks (hf0 h) hr hok hx,
    fun h hr hok => ⟨fun hal hcode => ?_, fun hal hcode => ?_, fun hal => ?_⟩⟩
  · rw [hx]
    exact perform_form4_absent _ _ _ _ _ (hf.trans h)
  all_goals rw [checked_ok _ _ ((memChecks_pass _ _ _ _ _ _).2 hok)] at hx
  · rw [storeEffect_allowed hal, hcode, perform_form4_runs _ _ _ _ _ rfl (hf0 h) hr] at hx
    exact ⟨_, hx, hs ▸ becomes_finish_form4 _ _ _ _ _ _ _ _ _ _
      (becomes_writeBase (becomes_storeValue hwf _ _ _) _) rfl⟩
  · rw [hx, storeEffect_allowed hal, hcode, perform_form4_runs _ _ _ _ _ rfl (hf0 h) hr]
    rfl
  · obtain ⟨k, b, hb, hab⟩ := accessAbort_denied (wr := true) hal
    rw [storeEffect, memWrite_of_abort hab, perform_form4_runs _ _ _ _ _ rfl (hf0 h) hr] at hx
    exact ⟨k, b, hb, hx⟩

/-- Settles O45: the ten loads are instances of one rule. -/
theorem loadResults : Obligations.LoadResults := by
  intro e rd m mt s f ok okT a b
  have h2 := and_thumb_or s.cfg e
  exact ⟨givesLoad_of rfl rfl, givesLoad_of rfl rfl, givesLoad_of rfl rfl, givesLoad_of rfl rfl, givesLoad_of rfl rfl,
    givesLoad_of rfl rfl, givesLoad_of rfl rfl, givesLoad_of rfl h2, givesLoad_of rfl h2, givesLoad_of rfl h2⟩

/-- Settles O46: the six stores are instances of one rule. -/
theorem storeResults : Obligations.StoreResults := by
  intro e rd m mt s hwf f ok okT a b
  have h2 := and_thumb_or s.cfg e
  exact ⟨givesStore_of hwf rfl rfl, givesStore_of hwf rfl rfl, givesStore_of hwf rfl rfl, givesStore_of hwf rfl rfl,
    givesStore_of hwf rfl rfl, givesStore_of hwf rfl h2⟩

end Sys2Proof.Machine
end
